-- ==== Sys2Proof/Word.lean ====
section
/-! DEFINITION. The value types of the block (00_scope.md section 5): bytes, nibbles and strings of 8-bit characters. -/

namespace Sys2Proof

/-- An unsigned 8-bit value (00_scope.md section 5). -/
abbrev Byte := BitVec 8

/-- An unsigned 4-bit value (00_scope.md section 5). -/
abbrev Nibble := BitVec 4

/-- A string: a sequence of characters, each one 8-bit code (20_memory.md R41). -/
abbrev Text := List Byte

end Sys2Proof
end

