-- ==== Sys2Proof/Config.lean ====
section
/-! DEFINITION. What an implementation fixes (00_scope.md R5) and the free values of the working state (10_state.md R27). -/

namespace Sys2Proof

/-- The configuration arguments of 00_scope.md R5. State carries one value of it, which no step changes, so a
statement about every state is a statement about every configuration (log 5). -/
structure Config where
  /-- HEADER_TEXT (10_state.md R24, R25). -/
  headerText     : Text
  /-- HEX_ACCEPT_UPPER (30_encoding.md R68). -/
  hexAcceptUpper : Bool
  /-- MAX_TEXT_CHARS (20_memory.md R53). -/
  maxTextChars   : Nat
deriving DecidableEq, Repr

/-- The code of a lowercase hex digit, `'0'` to `'9'` or `'a'` to `'f'` (10_state.md R25, 41_encode.md R132). -/
def isLowerHexCode (c : Byte) : Bool :=
  (0x30 ≤ c.toNat && c.toNat ≤ 0x39) || (0x61 ≤ c.toNat && c.toNat ≤ 0x66)

/-- What the spec asks of the arguments: the header is 32 lowercase hex digits (10_state.md R25) and the capacity is
at least 32 (20_memory.md R53). -/
def Config.wf (c : Config) : Bool :=
  c.headerText.length == 32 && c.headerText.all isLowerHexCode && decide (32 ≤ c.maxTextChars)

/-- Free value (log 4): the position counter outside a transaction (10_state.md R27, 93_implementation_defined.md U1). -/
opaque Config.freePos : Nat → Byte

/-- Free value (log 4): the byte being transformed, outside a transaction (10_state.md R27). -/
opaque Config.freeByte : Nat → Byte

/-- Free value (log 4): the nibble being transformed, outside a transaction (10_state.md R27). -/
opaque Config.freeNibble : Nat → Nibble

/-- Free value (log 4): the output buffer outside a transaction (10_state.md R27). -/
opaque Config.freeOut : Nat → List Byte

/-- Free value (log 4): the header check's result outside a transaction (10_state.md R27). -/
opaque Config.freeHeaderOk : Nat → Bool

end Sys2Proof
end

