-- ==== Sys2Proof/Syntax.lean ====
section
/-! DEFINITION. Requests as the host presents them and the three commands they stand for (30_encoding.md R60, R62). -/

namespace Sys2Proof

/-- A request: the command code and two operand strings, each carrying its own length (30_encoding.md R60, R71). -/
structure Request where
  /-- OP[7:0]. -/
  op : Byte
  /-- Operand A. -/
  a  : Text
  /-- Operand B. -/
  b  : Text
deriving DecidableEq, Repr

/-- The commands, one constructor per row of spec/opcode_table.json (00_scope.md R1, 30_encoding.md R62). Both
operands stand in each of them: an ignored operand is carried, and still held to the capacity (30_encoding.md R65). -/
inductive Instr where
  /-- ENCODE, OP = 0x01: A is the payload as hex text, B is ignored (41_encode.md R131). -/
  | encode (a b : Text)
  /-- DECODE, OP = 0x02: A is an EncodedString, B is ignored (42_decode.md R141). -/
  | decode (a b : Text)
  /-- VALIDATE, OP = 0x03: A is the payload as hex text, B an EncodedString (43_validate.md R160). -/
  | validate (a b : Text)
deriving DecidableEq, Repr

/-- An operand in the textual form of a request: the quoted characters, after `HEADER_TEXT` where it is written
`H ++ "..."` (30_encoding.md R72). -/
structure AsmOperand where
  header : Bool
  quoted : Text
deriving DecidableEq, Repr

/-- The textual form of a request (30_encoding.md R72): three mnemonic forms and the raw form `.req`. -/
inductive AsmLine where
  | encode (a : AsmOperand)
  | decode (a : AsmOperand)
  | validate (a b : AsmOperand)
  | req (op : Byte) (a b : AsmOperand)
deriving DecidableEq, Repr

end Sys2Proof
end

