-- ==== Sys2Proof/WellFormed.lean ====
section
/-! DEFINITION. When a request or a command is within the block's capacity (20_memory.md R53, 30_encoding.md R60, R65). -/

namespace Sys2Proof

/-- An operand is within capacity (20_memory.md R53; 30_encoding.md R60 `0 ≤ LEN ≤ MAX_TEXT_CHARS`). -/
def Config.fits (c : Config) (t : Text) : Bool := decide (t.length ≤ c.maxTextChars)

/-- Both operands are within capacity, used or ignored (30_encoding.md R65: "Every operand is still held to
`MAX_TEXT_CHARS`"). -/
def Request.wf (c : Config) (r : Request) : Bool := c.fits r.a && c.fits r.b

/-- A command whose operands are within capacity. -/
def Instr.wf (c : Config) : Instr → Bool
  | .encode a b => c.fits a && c.fits b
  | .decode a b => c.fits a && c.fits b
  | .validate a b => c.fits a && c.fits b

end Sys2Proof
end

