-- ==== Sys2Proof/Decode.lean ====
section
/-! DEFINITION. From a request's words to a command, total and rejecting by name, and back (30_encoding.md R60 to R65,
R71 to R73; the words are laid out as in 95_test_vectors.md section 3, log 7). -/

namespace Sys2Proof

/-- Why words are no request, or a request no command. -/
inductive DecodeError where
  /-- The words end before the request does. -/
  | truncated
  /-- The OP word is no 8-bit value (30_encoding.md R71: "OP is always exactly 8 bits"). -/
  | opNotByte
  /-- A character is no 8-bit code (20_memory.md R41). -/
  | charNotByte
  /-- Words are left after operand B. -/
  | trailing
  /-- OP is reserved (30_encoding.md R64). The step answers such a request with ILLEGAL_COMMAND. -/
  | reservedCode
deriving DecidableEq, Repr

/-- The command of a request: the whole OP byte is compared against each code (30_encoding.md R62, R63), every other
value is reserved (R64). -/
def decode (r : Request) : Except DecodeError Instr :=
  if r.op = 0x01#8 then .ok (.encode r.a r.b)
  else if r.op = 0x02#8 then .ok (.decode r.a r.b)
  else if r.op = 0x03#8 then .ok (.validate r.a r.b)
  else .error .reservedCode

/-- `n` characters from the front of the words, and the words after them. -/
def takeChars : Nat → List Nat → Except DecodeError (Text × List Nat)
  | 0, ws => .ok ([], ws)
  | _ + 1, [] => .error .truncated
  | n + 1, w :: ws =>
    if 256 ≤ w then .error .charNotByte
    else match takeChars n ws with
      | .ok (t, rest) => .ok (BitVec.ofNat 8 w :: t, rest)
      | .error e => .error e

/-- An operand: its length, then its characters (95_test_vectors.md section 3; 30_encoding.md R60: "The request
carries each operand's length with it"). -/
def takeOperand : List Nat → Except DecodeError (Text × List Nat)
  | [] => .error .truncated
  | n :: ws => takeChars n ws

/-- A request from its words: OP, then operand A, then operand B the same way (95_test_vectors.md section 3). -/
def readRequest : List Nat → Except DecodeError Request
  | [] => .error .truncated
  | op :: ws =>
    if 256 ≤ op then .error .opNotByte
    else match takeOperand ws with
      | .error e => .error e
      | .ok (a, ws') =>
        match takeOperand ws' with
        | .error e => .error e
        | .ok (b, []) => .ok { op := BitVec.ofNat 8 op, a := a, b := b }
        | .ok (_, _ :: _) => .error .trailing

/-- A command from the words of a request. -/
def decodeWords (ws : List Nat) : Except DecodeError Instr :=
  match readRequest ws with
  | .error e => .error e
  | .ok r => decode r

/-- The request a command stands for (30_encoding.md R62). -/
def encode : Instr → Request
  | .encode a b => { op := 0x01#8, a := a, b := b }
  | .decode a b => { op := 0x02#8, a := a, b := b }
  | .validate a b => { op := 0x03#8, a := a, b := b }

/-- The words of an operand: its length in characters and its character codes. -/
def operandWords (t : Text) : List Nat := t.length :: t.map BitVec.toNat

/-- The words of a request: OP, operand A, operand B (95_test_vectors.md section 3). -/
def requestWords (r : Request) : List Nat := r.op.toNat :: (operandWords r.a ++ operandWords r.b)

/-- The words of a command. -/
def encodeWords (i : Instr) : List Nat := requestWords (encode i)

/-- The words of the request whose OP is the 8 bits of an opcode-table row and whose operand words are all zero: two
empty operands. -/
def tableWords (w : Nat) : List Nat := [w % 256, 0, 0]

/-- The request that `tableWords` lays out. -/
def tableRequest (w : Nat) : Request := { op := BitVec.ofNat 8 w, a := [], b := [] }

/-- The command the decoder reads from a table word: OP in bits 7 to 0 (30_encoding.md R63), no other width is an OP
(R71). -/
def decodeTableWord (nbits w : Nat) : Option Instr :=
  if nbits = 8 ∧ w < 256 then
    match decodeWords (tableWords w) with
    | .ok i => some i
    | .error _ => none
  else none

/-- The characters of an operand of the textual form (30_encoding.md R72). -/
def AsmOperand.chars (c : Config) (o : AsmOperand) : Text :=
  if o.header then c.headerText ++ o.quoted else o.quoted

/-- The one request of each textual form (30_encoding.md R73); ENCODE and DECODE have an empty operand B (R72). -/
def AsmLine.request (c : Config) : AsmLine → Request
  | .encode a => { op := 0x01#8, a := a.chars c, b := [] }
  | .decode a => { op := 0x02#8, a := a.chars c, b := [] }
  | .validate a b => { op := 0x03#8, a := a.chars c, b := b.chars c }
  | .req op a b => { op := op, a := a.chars c, b := b.chars c }

end Sys2Proof
end

