-- ==== Sys2Proof/Machine/Constants.lean ====
section
/-! DEFINITION. The block's constants (10_state.md R23, R24) and the defaults of the configuration arguments
(00_scope.md R5). -/

namespace Sys2Proof.Machine

/-- XOR_KEY is the byte 0xD8, hardwired (10_state.md R23). -/
def xorKey : Byte := 0xD8#8

/-- The 32 ASCII codes of `d8ab19d5c7a0f27c10fa57540506ac68`, as 10_state.md R24 lists them. -/
def defaultHeaderText : Text :=
  [0x64#8, 0x38#8, 0x61#8, 0x62#8, 0x31#8, 0x39#8, 0x64#8, 0x35#8,
   0x63#8, 0x37#8, 0x61#8, 0x30#8, 0x66#8, 0x32#8, 0x37#8, 0x63#8,
   0x31#8, 0x30#8, 0x66#8, 0x61#8, 0x35#8, 0x37#8, 0x35#8, 0x34#8,
   0x30#8, 0x35#8, 0x30#8, 0x36#8, 0x61#8, 0x63#8, 0x36#8, 0x38#8]

/-- The configuration of State.reset: the defaults of 00_scope.md section 4. DESIGN CHOICE (log 5), unsafe:
MAX_TEXT_CHARS is OPEN and has no default; 4096 is the model's. -/
def defaultConfig : Config :=
  { headerText := defaultHeaderText, hexAcceptUpper := true, maxTextChars := 4096 }

end Sys2Proof.Machine
end

