-- ==== Sys2Proof/Machine/State.lean ====
section
/-! DEFINITION. The state of one instance of the block (10_state.md section 4), what it can refuse, and its state right
after reset (70_reset_and_hazards.md R190). -/

namespace Sys2Proof.Machine

/-- The error kinds (60_exceptions.md R170). -/
inductive ErrorKind where
  | malformedHex
  | headerMismatch
  | lengthMismatch
  | illegalCommand
deriving DecidableEq, Repr

/-- A response: the 8-bit status code, the result text, the flag bit (30_encoding.md R61). -/
structure Response where
  /-- STATUS[7:0]. -/
  status : Byte
  /-- OUT. -/
  out    : Text
  /-- FLAG. -/
  flag   : Bool
deriving DecidableEq, Repr

/-- The interface phase (10_state.md R26); `busy` holds the request being processed. -/
inductive Phase where
  | idle
  | busy (req : Request)
deriving DecidableEq, Repr

/-- The working state of a transaction (10_state.md R27, R29). -/
structure Work where
  /-- The position index, an 8-bit counter (10_state.md R29). -/
  pos      : Byte
  /-- The byte being transformed. -/
  byte     : Byte
  /-- The nibble being transformed. -/
  nibble   : Nibble
  /-- The output built so far. DESIGN CHOICE (log 19), unsafe for a claim about the working state: R27 gives it no form;
  here it is bytes before `hexFormat`, without the header: encoded bytes for ENCODE, payload bytes for DECODE, and for
  VALIDATE, whose OUT is empty, the re-derived encoded bytes. -/
  out      : List Byte
  /-- The result of the header check. -/
  headerOk : Bool
deriving DecidableEq, Repr

/-- One move of the host, of time, or of the block. The model's own: the host's moves stand in State as data, and
say which agent moves next (log 2). -/
inductive Event where
  /-- The host issues a request (10_state.md R26, 70_reset_and_hazards.md R195). -/
  | issue (req : Request)
  /-- Reset is applied and released (70_reset_and_hazards.md R190, R191; log 11). -/
  | reset
  /-- Time passes without a response: an Idle instance waits (70_reset_and_hazards.md R195), a Busy one works on
  (LATENCY, R197; log 1). -/
  | tick
  /-- A Busy instance delivers its response (10_state.md R26). -/
  | deliver
deriving DecidableEq, Repr

/-- The block has no faults of its own: errors are ordinary responses, and there are no traps (00_scope.md section 7,
60_exceptions.md R176, R177; log 17). No one raises a fault, which is safe. -/
inductive Fault where
deriving DecidableEq, Repr

/-- Why the model gives a step no meaning. -/
inductive Refusal where
  /-- Raised by exec's arm of a command that has no meaning yet. Safe: the model stops. -/
  | notModelled (mnemonic : String)
  /-- Raised when the host issues a request to a Busy instance (70_reset_and_hazards.md R195 duty 1,
  93_implementation_defined.md U4). Safe: the spec gives it no meaning. -/
  | requestWhileBusy
  /-- Raised when an operand is longer than MAX_TEXT_CHARS (20_memory.md R53, 70_reset_and_hazards.md R195 duty 2).
  Safe: the spec gives it no meaning. -/
  | overCapacity
deriving DecidableEq, Repr

/-- One instance of the block, with its host's moves and what the host has received. -/
structure State where
  /-- The configuration, which no step changes (00_scope.md R5, 10_state.md R23 to R25). -/
  cfg       : Config
  /-- Idle, or Busy with the held request (10_state.md R26). -/
  phase     : Phase
  /-- The working state (10_state.md R27, R29). -/
  work      : Work
  /-- The response of the held request, once it is finished and not delivered yet (10_state.md section 4,
  70_reset_and_hazards.md R190). -/
  pending   : Option Response
  /-- The model's own: the moves still to come, oldest first (log 2). -/
  inputs    : List Event
  /-- The model's own: the responses delivered so far, oldest first (log 3). -/
  delivered : List Response
  /-- The model's own: how many free values of the working state have been read (log 4). -/
  freeCount : Nat
deriving DecidableEq, Repr

/-- Right after reset: Idle, no held request, no pending response (70_reset_and_hazards.md R190), the constants as
they are (10_state.md section 4). DESIGN CHOICE (log 4), unsafe: the working state, which R190 leaves unspecified,
is zero. -/
def State.reset : State :=
  { cfg := defaultConfig
    phase := .idle
    work := { pos := 0#8, byte := 0#8, nibble := 0#4, out := [], headerOk := false }
    pending := none
    inputs := []
    delivered := []
    freeCount := 0 }

end Sys2Proof.Machine
end

