-- ==== Sys2Proof/Machine/Flags.lean ====
section
/-! DEFINITION. Status codes, the flag bit and the responses that carry them (30_encoding.md R61, R66; 60_exceptions.md
R170, R171). -/

namespace Sys2Proof.Machine

/-- The status code of a command that completed (30_encoding.md R66). -/
def statusOk : Byte := 0x00#8

/-- The status code of an error kind (30_encoding.md R66, 60_exceptions.md R170). -/
def ErrorKind.code : ErrorKind → Byte
  | .malformedHex => 0x01#8
  | .headerMismatch => 0x02#8
  | .lengthMismatch => 0x03#8
  | .illegalCommand => 0x04#8

/-- `respond(OK, out, 0)`: FLAG is 0 for every command but VALIDATE (30_encoding.md R61). -/
def okText (out : Text) : Response := { status := statusOk, out := out, flag := false }

/-- `respond(OK, [], flag)`: VALIDATE's response (43_validate.md R160). -/
def okFlag (flag : Bool) : Response := { status := statusOk, out := [], flag := flag }

/-- `raise E`: the response `respond(code(E), [], 0)` that ends a command (60_exceptions.md R171). -/
def raiseError (e : ErrorKind) : Response := { status := e.code, out := [], flag := false }

end Sys2Proof.Machine
end

