-- ==== Sys2Proof/Machine/Ops.lean ====
section
/-! DEFINITION. The datapath of one nibble (40_datapath_units.md R100 to R108), the working state (10_state.md R27, R29)
and the shared operations of an instance: accepting a request, answering it, and reset (10_state.md R26,
70_reset_and_hazards.md R190, R191). -/

namespace Sys2Proof.Machine

/-- `split(b)`: the high and the low nibble of a byte (40_datapath_units.md R100). -/
def split (b : Byte) : Nibble × Nibble := ((b >>> 4).setWidth 4, (b &&& 0x0F#8).setWidth 4)

/-- `join(hi, lo)` (40_datapath_units.md R101). -/
def join (hi lo : Nibble) : Byte := (hi.setWidth 8 <<< 4) ||| lo.setWidth 8

/-- `xform(n, i)` at the 8-bit position counter `pos = i mod 256` (40_datapath_units.md R102; the XOR comes first,
90_conflicts.md C2). -/
def xform (n : Nibble) (pos : Byte) : Byte := (n.setWidth 8 ^^^ xorKey) + pos

/-- `ixform(e, i)` at the 8-bit position counter (40_datapath_units.md R105). -/
def ixform (e : Byte) (pos : Byte) : Nibble := (((e - pos) ^^^ xorKey) &&& 0x0F#8).setWidth 4

/-- The position counter at payload position `i`: `i mod 256` (10_state.md R29). -/
def posAt (i : Nat) : Byte := BitVec.ofNat 8 i

/-- The canonical encoded bytes at a position: those the forward transform can produce there
(40_datapath_units.md R108). -/
def isCanonical (e : Byte) (pos : Byte) : Bool := (e - pos) >>> 4 == 0xD#8

/-- The working state that nothing constrains (10_state.md R27, 93_implementation_defined.md U1; log 4). -/
def freeWork (n : Nat) : Work :=
  { pos := Config.freePos n
    byte := Config.freeByte n
    nibble := Config.freeNibble n
    out := Config.freeOut n
    headerOk := Config.freeHeaderOk n }

/-- The working state at the start of a command: the position index is 0 and no output is built (10_state.md R29);
the header check's result is given. The byte and nibble registers keep what they hold until the first position. -/
def Work.start (w : Work) (headerOk : Bool) : Work :=
  { w with pos := 0#8, out := [], headerOk := headerOk }

/-- The transaction is over: the instance is Idle and holds nothing, and its working state is not carried on
(10_state.md R26, R27). -/
def State.release (s : State) : State :=
  { s with phase := .idle, pending := none, work := freeWork s.freeCount, freeCount := s.freeCount + 1 }

/-- The response is delivered to the host and the instance is Idle (10_state.md R26). -/
def State.deliver (s : State) (r : Response) : State :=
  { s.release with delivered := s.delivered ++ [r] }

/-- Reset of an instance: Idle, no held request, no pending response; the constants do not change, and a request in
flight is abandoned without a response (70_reset_and_hazards.md R190, R191). -/
def State.takeReset (s : State) : State := s.release

/-- The instance takes the request by value and is Busy with it (10_state.md R26, 70_reset_and_hazards.md R195). -/
def State.accept (s : State) (r : Request) (w : Work) : State :=
  { s with phase := .busy r, pending := none, work := w }

/-- `respond(...)` for a command with the operands `a` and `b`: the response is delivered and the command ends
(30_encoding.md R61). A command over capacity gets no step (20_memory.md R53; log 9). -/
def answer (a b : Text) (r : Response) (s : State) : Host.Outcome State Fault Refusal :=
  if s.cfg.fits a && s.cfg.fits b then .next (s.deliver r) else .refused .overCapacity

end Sys2Proof.Machine
end

