-- ==== Sys2Proof/Machine/Operands.lean ====
section
/-! DEFINITION. The operand forms: hex text (30_encoding.md R67, R68; 40_datapath_units.md R109, R110), the header of an
EncodedString and its data portion (R112, R113), and the comparator (R114). -/

namespace Sys2Proof.Machine

/-- `hexDigit(v)`: the lowercase digit of a nibble (30_encoding.md R67). -/
def hexDigit (v : Nibble) : Byte :=
  if v.toNat ≤ 9 then 0x30#8 + v.setWidth 8 else 0x61#8 + (v.setWidth 8 - 10#8)

/-- `hexValue(c)`, with HEX_ACCEPT_UPPER as the first argument (30_encoding.md R68). -/
def hexValue (upper : Bool) (c : Byte) : Option Nibble :=
  if 0x30 ≤ c.toNat ∧ c.toNat ≤ 0x39 then some ((c - 0x30#8).setWidth 4)
  else if 0x61 ≤ c.toNat ∧ c.toNat ≤ 0x66 then some ((c - 0x61#8 + 10#8).setWidth 4)
  else if 0x41 ≤ c.toNat ∧ c.toNat ≤ 0x46 then
    if upper then some ((c - 0x41#8 + 10#8).setWidth 4) else none
  else none

/-- `hexFormat(D)`: bytes to lowercase hex text, high digit first (40_datapath_units.md R109; 20_memory.md R42, R43). -/
def hexFormat : List Byte → Text
  | [] => []
  | b :: D => hexDigit (split b).1 :: hexDigit (split b).2 :: hexFormat D

/-- `hexParse(t)`, with HEX_ACCEPT_UPPER as the first argument: MalformedHex for an odd length or a character with no
value (40_datapath_units.md R110). -/
def hexParse (upper : Bool) : Text → Except ErrorKind (List Byte)
  | [] => .ok []
  | [_] => .error .malformedHex
  | c :: d :: t =>
    match hexValue upper c, hexValue upper d, hexParse upper t with
    | some h, some l, .ok D => .ok (join h l :: D)
    | _, _, _ => .error .malformedHex

/-- `hasHeader(t)`: the first 32 characters are exactly HEADER_TEXT, letter case included
(40_datapath_units.md R112). -/
def hasHeader (c : Config) (t : Text) : Bool := decide (32 ≤ t.length) && t.take 32 == c.headerText

/-- `dataPortion(t) = t[32:]` (40_datapath_units.md R113). -/
def dataPortion (t : Text) : Text := t.drop 32

/-- `eqBytes(X, Y)`: equal lengths, then equal at every position (40_datapath_units.md R114). -/
def eqBytes : List Byte → List Byte → Bool
  | [], [] => true
  | x :: X, y :: Y => x == y && eqBytes X Y
  | _, _ => false

/-- An uppercase letter made lowercase, every other code as it is (40_datapath_units.md R111). -/
def lowerChar (c : Byte) : Byte :=
  if 0x41 ≤ c.toNat ∧ c.toNat ≤ 0x5A then c + 0x20#8 else c

/-- The character is an uppercase hex digit, `'A'` to `'F'` (30_encoding.md R68). -/
def isUpperHexCode (c : Byte) : Bool := 0x41 ≤ c.toNat && c.toNat ≤ 0x46

end Sys2Proof.Machine
end

