-- ==== Sys2Proof/Machine/DecodePipeline.lean ====
section
/-! DEFINITION. codec_decode_pipeline: the DECODE command (42_decode.md). -/

namespace Sys2Proof.Machine

/-- One payload position of `decodeData`: both bytes of the pair are transformed back at the same position and joined,
and the position counter moves on (42_decode.md R140, 10_state.md R29). -/
def decodePosition (w : Work) (e0 e1 : Byte) : Work :=
  { w with
    byte := e1
    nibble := ixform e1 w.pos
    out := w.out ++ [join (ixform e0 w.pos) (ixform e1 w.pos)]
    pos := w.pos + 1#8 }

/-- The working state after the pairs of an encoded byte sequence, in order; a byte without a partner is no pair
(42_decode.md R140 takes an even length only). -/
def decodeLoop (w : Work) : List Byte → Work
  | e0 :: e1 :: E => decodeLoop (decodePosition w e0 e1) E
  | _ => w

/-- `decodeData(E)` at the byte level (42_decode.md R140). -/
def decodeData (E : List Byte) : List Byte :=
  (decodeLoop { pos := 0#8, byte := 0#8, nibble := 0#4, out := [], headerOk := false } E).out

/-- The response of `DECODE(A)`: header, then hex text, then byte-count parity (42_decode.md R141, R149). -/
def respondDecode (c : Config) (a : Text) : Response :=
  if hasHeader c a then
    match hexParse c.hexAcceptUpper (dataPortion a) with
    | .error e => raiseError e
    | .ok E =>
      if E.length % 2 = 1 then raiseError .lengthMismatch else okText (hexFormat (decodeData E))
  else raiseError .headerMismatch

/-- DECODE (42_decode.md R141): operand B changes nothing (30_encoding.md R65). -/
def execDecode (a b : Text) (s : State) : Host.Outcome State Fault Refusal :=
  answer a b (respondDecode s.cfg a) s

/-- One tick of DECODE, after the header check of the command's start: the next payload position, or the finished
response (42_decode.md R141; log 6).
DESIGN CHOICE (log 6), unsafe for a claim about the working state: the position is found from the length of the output
built so far, since the 8-bit `pos` repeats after 256 positions; `pos` is read for the transform only. -/
def tickDecode (c : Config) (a : Text) (w : Work) : Work × Option Response :=
  if w.headerOk then
    match hexParse c.hexAcceptUpper (dataPortion a) with
    | .error e => (w, some (raiseError e))
    | .ok E =>
      if E.length % 2 = 1 then (w, some (raiseError .lengthMismatch))
      else match E.drop (2 * w.out.length) with
        | e0 :: e1 :: _ => (decodePosition w e0 e1, none)
        | _ => (w, some (okText (hexFormat w.out)))
  else (w, some (raiseError .headerMismatch))

end Sys2Proof.Machine
end

