-- ==== Sys2Proof/Machine/EncodePipeline.lean ====
section
/-! DEFINITION. codec_encode_pipeline: the ENCODE command (41_encode.md). -/

namespace Sys2Proof.Machine

/-- One payload position of `encodeData`: the byte is split, both nibbles are transformed at the same position, the
high nibble's byte goes first, and the position counter moves on (41_encode.md R130, 10_state.md R29). -/
def encodePosition (w : Work) (b : Byte) : Work :=
  { w with
    byte := b
    nibble := (split b).2
    out := w.out ++ [xform (split b).1 w.pos, xform (split b).2 w.pos]
    pos := w.pos + 1#8 }

/-- The working state after the positions of a payload, in order (20_memory.md R54). -/
def encodeLoop (w : Work) (P : List Byte) : Work := P.foldl encodePosition w

/-- `encodeData(P)` at the byte level (41_encode.md R130): position 0 first, with nothing built before. -/
def encodeData (P : List Byte) : List Byte :=
  (encodeLoop { pos := 0#8, byte := 0#8, nibble := 0#4, out := [], headerOk := false } P).out

/-- The response of `ENCODE(A)` (41_encode.md R131). -/
def respondEncode (c : Config) (a : Text) : Response :=
  match hexParse c.hexAcceptUpper a with
  | .error e => raiseError e
  | .ok P => okText (c.headerText ++ hexFormat (encodeData P))

/-- ENCODE (41_encode.md R131): operand B changes nothing (30_encoding.md R65). -/
def execEncode (a b : Text) (s : State) : Host.Outcome State Fault Refusal :=
  answer a b (respondEncode s.cfg a) s

/-- One tick of ENCODE: the next payload position of the output built so far, or the finished response
(41_encode.md R131; log 6).
DESIGN CHOICE (log 6), unsafe for a claim about the working state: the position is found from the length of the output
built so far, since the 8-bit `pos` repeats after 256 positions; `pos` is read for the transform only. -/
def tickEncode (c : Config) (a : Text) (w : Work) : Work × Option Response :=
  match hexParse c.hexAcceptUpper a with
  | .error e => (w, some (raiseError e))
  | .ok P =>
    match P.drop (w.out.length / 2) with
    | b :: _ => (encodePosition w b, none)
    | [] => (w, some (okText (c.headerText ++ hexFormat w.out)))

end Sys2Proof.Machine
end

