-- ==== Sys2Proof/Machine/ValidateComparator.lean ====
section
/-! DEFINITION. codec_validate_comparator: the VALIDATE command (43_validate.md). It uses the forward path only (R162). -/

namespace Sys2Proof.Machine

/-- The comparison of VALIDATE: the header of `b`, then the length and the characters of its data portion against the
re-derived text `x` (43_validate.md R160; the characters, not the parsed bytes, 90_conflicts.md C7). -/
def matchesEncoding (headerOk : Bool) (b x : Text) : Bool :=
  headerOk && (dataPortion b).length == x.length && eqBytes (dataPortion b) x

/-- The response of `VALIDATE(A, B)`: STATUS is OK whatever fails (43_validate.md R160, R161). -/
def respondValidate (c : Config) (a b : Text) : Response :=
  match hexParse c.hexAcceptUpper a with
  | .error _ => okFlag false
  | .ok P => okFlag (matchesEncoding (hasHeader c b) b (hexFormat (encodeData P)))

/-- VALIDATE (43_validate.md R160). -/
def execValidate (a b : Text) (s : State) : Host.Outcome State Fault Refusal :=
  answer a b (respondValidate s.cfg a b) s

/-- One tick of VALIDATE, after the header check of the command's start: the next payload position, or the finished
response (43_validate.md R160; log 6).
DESIGN CHOICE (log 6), unsafe for a claim about the working state: the position is found from the length of the output
built so far, since the 8-bit `pos` repeats after 256 positions; `pos` is read for the transform only. -/
def tickValidate (c : Config) (a b : Text) (w : Work) : Work × Option Response :=
  match hexParse c.hexAcceptUpper a with
  | .error _ => (w, some (okFlag false))
  | .ok P =>
    match w.headerOk, P.drop (w.out.length / 2) with
    | true, p :: _ => (encodePosition w p, none)
    | headerOk, _ => (w, some (okFlag (matchesEncoding headerOk b (hexFormat w.out))))

end Sys2Proof.Machine
end

