-- ==== Sys2Proof/Machine/Dispatch.lean ====
section
/-! DEFINITION. One arm per command (30_encoding.md R62). -/

namespace Sys2Proof.Machine

def exec (i : Instr) (s : State) : Host.Outcome State Fault Refusal :=
  match i with
  | .encode a b => Sys2Proof.Machine.execEncode a b s
  | .decode a b => Sys2Proof.Machine.execDecode a b s
  | .validate a b => Sys2Proof.Machine.execValidate a b s

end Sys2Proof.Machine
end

