-- ==== Sys2Proof/Machine/Interface.lean ====
section
/-! DEFINITION. The host's moves and the block's moves at the request and response interface (10_state.md R26,
70_reset_and_hazards.md R190 to R197). -/

namespace Sys2Proof.Machine

/-- The header check at the start of a command: of operand A for DECODE, of operand B for VALIDATE; ENCODE and a
reserved OP check no header (42_decode.md R141, 43_validate.md R160). -/
def headerCheck (c : Config) (r : Request) : Bool :=
  match decode r with
  | .ok (.decode a _) => hasHeader c a
  | .ok (.validate _ b) => hasHeader c b
  | .ok (.encode _ _) => false
  | .error _ => false

/-- A request is taken up: the instance is Busy with it, its working state at the start of the command
(10_state.md R26, R29). DESIGN CHOICE (log 19), unsafe for a claim about the working state: a reserved OP too sets `pos`
to 0 and `out` to empty, where R29 speaks of ENCODE, DECODE and VALIDATE only. -/
def State.begin (s : State) (r : Request) : State := s.accept r (s.work.start (headerCheck s.cfg r))

/-- The host issues a request (10_state.md R26). A request to a Busy instance, or over capacity, breaks a host duty and
is refused (70_reset_and_hazards.md R195; log 9, log 10). -/
def hostIssue (r : Request) (s : State) : Host.Outcome State Fault Refusal :=
  match s.phase with
  | .busy _ => .refused .requestWhileBusy
  | .idle => if r.wf s.cfg then .next (s.begin r) else .refused .overCapacity

/-- A reserved OP is answered with ILLEGAL_COMMAND and neither operand is read (30_encoding.md R64). -/
def answerReserved (r : Request) (s : State) : Host.Outcome State Fault Refusal :=
  answer r.a r.b (raiseError .illegalCommand) s

/-- The held request is executed and answered: OP is checked first (60_exceptions.md R174). -/
def serve (r : Request) (s : State) : Host.Outcome State Fault Refusal :=
  match decode r with
  | .error _ => answerReserved r s
  | .ok i => exec i s

/-- The block's move: a Busy instance delivers the response of its held request, the finished one where a tick has
finished it (10_state.md R26; log 6). An Idle instance has nothing to deliver (log 20). -/
def blockDeliver (s : State) : Host.Outcome State Fault Refusal :=
  match s.phase, s.pending with
  | .idle, _ => .next s
  | .busy r, some resp => answer r.a r.b resp s
  | .busy r, none => serve r s

/-- The response of a request (10_state.md R28): a function of the request and the constants alone, one case per
command code and one for every reserved code. A request over capacity is never answered with it (log 9). -/
def respond (c : Config) (r : Request) : Response :=
  match decode r with
  | .error _ => raiseError .illegalCommand
  | .ok (.encode a _) => respondEncode c a
  | .ok (.decode a _) => respondDecode c a
  | .ok (.validate a b) => respondValidate c a b

/-- One tick of the work on a request (10_state.md R27, R29; log 6). -/
def tickWork (c : Config) (r : Request) (w : Work) : Work × Option Response :=
  match decode r with
  | .error _ => (w, some (raiseError .illegalCommand))
  | .ok (.encode a _) => tickEncode c a w
  | .ok (.decode a _) => tickDecode c a w
  | .ok (.validate a b) => tickValidate c a b w

/-- Time passes: an Idle instance waits, a Busy one works on its request, or holds the finished response
(70_reset_and_hazards.md R195, R197; log 1). A request over capacity gets no step (20_memory.md R53). -/
def blockTick (s : State) : Host.Outcome State Fault Refusal :=
  match s.phase with
  | .idle => .next s
  | .busy r =>
    if r.wf s.cfg then
      match s.pending with
      | some _ => .next s
      | none => .next { s with work := (tickWork s.cfg r s.work).1, pending := (tickWork s.cfg r s.work).2 }
    else .refused .overCapacity

/-- What a move does to a state that it has been taken from. -/
def move (e : Event) (s : State) : Host.Outcome State Fault Refusal :=
  match e with
  | .issue r => hostIssue r s
  | .reset => .next s.takeReset
  | .tick => blockTick s
  | .deliver => blockDeliver s

end Sys2Proof.Machine
end

