-- ==== Sys2Proof/Machine/Step.lean ====
section
/-! DEFINITION. One step of the machine: the next move of `inputs`, or, where none is left, the block's own move
(10_state.md R26; log 2). -/

namespace Sys2Proof.Machine

/-- One step (10_state.md R26): with no move left the instance answers the request it holds, and an Idle one stays as
it is. -/
def step (s : State) : Host.Outcome State Fault Refusal :=
  match s.inputs with
  | [] => blockDeliver s
  | e :: es => move e { s with inputs := es }

/-- The request of an opcode-table word, with empty operands, issued to the instance, and the block's move next: the
very next step runs it (log 12). -/
def State.withFetchWord (s : State) (nbits w : Nat) : State :=
  { s.begin (tableRequest (w % 2 ^ nbits)) with inputs := .deliver :: s.inputs }

end Sys2Proof.Machine
end

