-- ==== Sys2Proof/Machine/System.lean ====
section
/-! DEFINITION. Any number of instances beside each other, sharing only the constants (60_exceptions.md R179,
20_memory.md R50; log 13). -/

namespace Sys2Proof.Machine

/-- The instances, in no particular order: they have no identifiers of their own (60_exceptions.md R179), and a place
in the list is only how a host picks one. -/
abbrev System := List State

/-- The constants are the same for every instance (10_state.md R23, 60_exceptions.md R179). DESIGN CHOICE (log 13), unsafe:
R179 names XOR_KEY and HEADER_TEXT as shared, and the model's condition takes HEX_ACCEPT_UPPER and MAX_TEXT_CHARS to be
shared with them. -/
def System.sharesConfig (c : Config) (S : System) : Bool := S.all (fun s => s.cfg == c)

/-- Instance `k` takes one step, and no other moves; where there is no instance `k`, none does. DESIGN CHOICE (log 13),
unsafe: that step may be the instance's own reset event, so one instance can be reset while the others go on, where R190
speaks of a reset of every instance (`System.takeReset`). -/
def System.stepAt (k : Nat) (S : System) : Host.Outcome System Fault Refusal :=
  match S[k]? with
  | none => .next S
  | some s =>
    match step s with
    | .next t => .next (S.set k t)
    | .fault f => .fault f
    | .refused r => .refused r

/-- Reset puts every instance in Idle (70_reset_and_hazards.md R190). -/
def System.takeReset (S : System) : System := S.map State.takeReset

end Sys2Proof.Machine
end

