-- ==== Sys2Proof/Safety.lean ====
section
/-! DEFINITION. What the claims are stated with: a command's answer, the invariant of an instance, the host's duties and
the answers a host is owed. -/

namespace Sys2Proof.Machine

/-- `o` is a next state in which `s`'s instance has delivered exactly the response `r` and is Idle, nothing held and
nothing else changed but the working state, which the transaction's end leaves open (10_state.md R26, R27;
60_exceptions.md R171). -/
def Answers (s : State) (o : Host.Outcome State Fault Refusal) (r : Response) : Prop :=
  ∃ t, o = .next t ∧ t.phase = .idle ∧ t.pending = none ∧ t.delivered = s.delivered ++ [r] ∧
    t.cfg = s.cfg ∧ t.inputs = s.inputs ∧ t.freeCount = s.freeCount + 1

/-- The working state is that of ENCODE or VALIDATE after `w.out.length / 2` positions of the payload `P`
(10_state.md R27, R29). The form of the output and the count of positions by its length are the model's choices
(log 19, log 6). -/
def EncodeProgress (P : List Byte) (w : Work) : Prop :=
  w.out.length / 2 ≤ P.length ∧ w.out = encodeData (P.take (w.out.length / 2)) ∧
    w.pos = posAt (w.out.length / 2)

/-- The working state is that of DECODE after `w.out.length` positions of the encoded bytes `E`
(10_state.md R27, R29). The form of the output and the count of positions by its length are the model's choices
(log 19, log 6). -/
def DecodeProgress (E : List Byte) (w : Work) : Prop :=
  2 * w.out.length ≤ E.length ∧ w.out = decodeData (E.take (2 * w.out.length)) ∧
    w.pos = posAt w.out.length

/-- The working state belongs to the held request: the header check's result is its, and so is the output built so far
where its text parses (10_state.md R27). That the header check's result is there from the start, and the output as bytes
in the order of the positions, are the model's choices (log 19, log 6). -/
def WorkOk (c : Config) (r : Request) (w : Work) : Prop :=
  w.headerOk = headerCheck c r ∧
  match decode r with
  | .error _ => True
  | .ok (.encode a _) => ∀ P, hexParse c.hexAcceptUpper a = .ok P → EncodeProgress P w
  | .ok (.decode a _) => ∀ E, hexParse c.hexAcceptUpper (dataPortion a) = .ok E → DecodeProgress E w
  | .ok (.validate a _) => ∀ P, hexParse c.hexAcceptUpper a = .ok P → EncodeProgress P w

/-- The invariant of an instance: the configuration is legal; an Idle instance has no pending response; a Busy one
holds a request within capacity, any pending response is that request's, and the working state belongs to it
(10_state.md R26, R28; 20_memory.md R50, R53; what it says of the working state rests on log 6 and log 19). -/
def State.Inv (s : State) : Prop :=
  s.cfg.wf = true ∧
  match s.phase with
  | .idle => s.pending = none
  | .busy r => r.wf s.cfg = true ∧ (s.pending = none ∨ s.pending = some (respond s.cfg r)) ∧ WorkOk s.cfg r s.work

/-- The request an instance holds. -/
def State.held (s : State) : Option Request :=
  match s.phase with
  | .idle => none
  | .busy r => some r

/-- The moves keep the host's duties (70_reset_and_hazards.md R195): a request only when none is outstanding, each
operand within capacity. The first argument is the request held so far. -/
def keepsDuties (c : Config) : Option Request → List Event → Bool
  | _, [] => true
  | none, .issue r :: es => r.wf c && keepsDuties c (some r) es
  | some _, .issue _ :: _ => false
  | _, .reset :: es => keepsDuties c none es
  | held, .tick :: es => keepsDuties c held es
  | _, .deliver :: es => keepsDuties c none es

/-- The responses a host is owed for its moves, in order: one for each request that no reset abandons, the response
of that request alone (10_state.md R26, R28; 70_reset_and_hazards.md R191). The last request left is answered, and a tick
or a delivery of an Idle instance counts for nothing (log 2, log 14, log 20). -/
def owed (c : Config) : Option Request → List Event → List Response
  | none, [] => []
  | some r, [] => [respond c r]
  | _, .issue r :: es => owed c (some r) es
  | _, .reset :: es => owed c none es
  | held, .tick :: es => owed c held es
  | none, .deliver :: es => owed c none es
  | some r, .deliver :: es => respond c r :: owed c none es

/-- Every encoded byte is canonical at its own position (40_datapath_units.md R108, 20_memory.md R44). -/
def AllCanonical (E : List Byte) : Prop := ∀ k (h : k < E.length), isCanonical E[k] (posAt (k / 2)) = true

end Sys2Proof.Machine
end

