-- ==== Sys2Proof/Certificates/Slice0/Obligations.lean ====
section
/-! DEFINITION. The statements for the provers, each with the rule of spec/ it formalises. -/

open Sys2Proof
open Sys2Proof.Machine

/-! ### The units (40_datapath_units.md) -/

/-- R100: `split(b) = (b >> 4, b & 0x0F)`, each in 0..15. -/
def Obligations.SplitGivesHighAndLowNibble : Prop :=
  ∀ b : Byte, (split b).1.toNat = b.toNat >>> 4 ∧ (split b).2.toNat = b.toNat &&& 0x0F ∧
    (split b).1.toNat ≤ 15 ∧ (split b).2.toNat ≤ 15

/-- R101: `join(hi, lo) = (hi << 4) | lo`; and the two laws that the spec derives itself there ("`join(split(b)) = b` for
every byte `b`, and `split(join(h, l)) = (h, l)` [derived: from rules R100 and R101]"). -/
def Obligations.JoinAndSplitAreInverse : Prop :=
  (∀ hi lo : Nibble, (join hi lo).toNat = (hi.toNat <<< 4) ||| lo.toNat) ∧
  (∀ b : Byte, join (split b).1 (split b).2 = b) ∧
  (∀ hi lo : Nibble, split (join hi lo) = (hi, lo))

/-- R102: the XOR comes first, then the sum modulo 256, at every position. -/
def Obligations.XformIsXorThenAddModulo256 : Prop :=
  ∀ (n : Nibble) (i : Nat), (xform n (posAt i)).toNat = ((n.toNat ^^^ 0xD8) + i) % 256

/-- What the spec derives itself in R103 (the XOR stage's range and the closed form of `xform`), R104 (both transforms
depend on the position through `i mod 256` alone) and R105 (the closed form of `ixform`). -/
def Obligations.TransformClosedFormsAndPeriod : Prop :=
  ∀ (n : Nibble) (e : Byte) (i : Nat),
    (n.toNat ^^^ 0xD8 = 0xD0 ||| (n.toNat ^^^ 0x8) ∧ 0xD0 ≤ n.toNat ^^^ 0xD8 ∧ n.toNat ^^^ 0xD8 ≤ 0xDF) ∧
    (xform n (posAt i)).toNat = (0xD0 + (n.toNat ^^^ 0x8) + i) % 256 ∧
    (ixform e (posAt i)).toNat = (((e.toNat + (256 - i % 256)) % 256) &&& 0x0F) ^^^ 0x8 ∧
    xform n (posAt i) = xform n (posAt (i % 256)) ∧ ixform e (posAt i) = ixform e (posAt (i % 256))

/-- R105: the difference modulo 256, then the XOR, then the mask. -/
def Obligations.IxformIsSubtractXorMask : Prop :=
  ∀ (e : Byte) (i : Nat),
    (ixform e (posAt i)).toNat = (((e.toNat + (256 - i % 256)) % 256) ^^^ 0xD8) &&& 0x0F

/-- What the spec derives itself in R106 and R107: the inverse transform undoes the forward one at every position, so the
forward one is injective in the nibble. -/
def Obligations.IxformInvertsXform : Prop :=
  ∀ (n m : Nibble) (i : Nat),
    ixform (xform n (posAt i)) (posAt i) = n ∧ (xform n (posAt i) = xform m (posAt i) → n = m)

/-- What the spec derives itself in R108: the canonical bytes of a position are the 16 bytes `e` with `(e -8 i) >> 4 = 0xD`, and every nibble is the
inverse transform of exactly 16 byte values. -/
def Obligations.SixteenCanonicalBytesAndSixteenPreimages : Prop :=
  ∀ i : Nat,
    (∀ e : Byte, (∃ n : Nibble, xform n (posAt i) = e) ↔ isCanonical e (posAt i) = true) ∧
    (∀ e : Byte, isCanonical e (posAt i) = true ↔ (e.toNat + (256 - i % 256)) % 256 / 16 = 0xD) ∧
    (((List.range 256).map (BitVec.ofNat 8)).filter (fun e => isCanonical e (posAt i))).length = 16 ∧
    (∀ n : Nibble,
      (((List.range 256).map (BitVec.ofNat 8)).filter (fun e => ixform e (posAt i) == n)).length = 16)

/-- R68: the value of every character code; `'A'` to `'F'` have one only when HEX_ACCEPT_UPPER is true; a text with a
character that has no value is MalformedHex. -/
def Obligations.HexValueOfEveryCharacter : Prop :=
  ∀ (u : Bool) (ch : Byte),
    (0x30 ≤ ch.toNat ∧ ch.toNat ≤ 0x39 → (hexValue u ch).map BitVec.toNat = some (ch.toNat - 0x30)) ∧
    (0x61 ≤ ch.toNat ∧ ch.toNat ≤ 0x66 → (hexValue u ch).map BitVec.toNat = some (ch.toNat - 0x61 + 10)) ∧
    (0x41 ≤ ch.toNat ∧ ch.toNat ≤ 0x46 →
      (hexValue u ch).map BitVec.toNat = if u then some (ch.toNat - 0x41 + 10) else none) ∧
    (ch.toNat < 0x30 ∨ (0x39 < ch.toNat ∧ ch.toNat < 0x41) ∨ (0x46 < ch.toNat ∧ ch.toNat < 0x61) ∨ 0x66 < ch.toNat →
      hexValue u ch = none) ∧
    (hexValue u ch = none → ∀ t : Text, ch ∈ t → hexParse u t = .error .malformedHex)

/-- R67: the lowercase digit of every nibble, and every character of every OUT is such a digit (for a legal header). -/
def Obligations.OutputsAreLowercaseHexDigits : Prop :=
  (∀ v : Nibble, (v.toNat ≤ 9 → (hexDigit v).toNat = 0x30 + v.toNat) ∧
    (10 ≤ v.toNat → (hexDigit v).toNat = 0x61 + (v.toNat - 10))) ∧
  (∀ (c : Config) (r : Request), c.wf = true → ∀ ch ∈ (respond c r).out, ∃ v : Nibble, ch = hexDigit v)

/-- R109: the length of the formatted text, both digits of every byte, high digit first, and the alphabet. -/
def Obligations.HexFormatWritesHighDigitFirst : Prop :=
  ∀ D : List Byte, (hexFormat D).length = 2 * D.length ∧
    (∀ ch ∈ hexFormat D, isLowerHexCode ch = true) ∧
    ∀ (k : Nat) (h : k < D.length),
      (hexFormat D)[2 * k]? = some (hexDigit ((D[k] >>> 4).setWidth 4)) ∧
      (hexFormat D)[2 * k + 1]? = some (hexDigit ((D[k] &&& 0x0F#8).setWidth 4))

/-- R110: parsing fails, and with MalformedHex, exactly on an odd length or a character with no value; otherwise byte
`k` is made of the values of characters `2k` and `2k+1`. -/
def Obligations.HexParseAcceptsExactlyHexText : Prop :=
  ∀ (u : Bool) (t : Text),
    (hexParse u t = .error .malformedHex ↔ t.length % 2 = 1 ∨ ∃ ch ∈ t, hexValue u ch = none) ∧
    (∀ e, hexParse u t = .error e → e = .malformedHex) ∧
    (∀ D, hexParse u t = .ok D → 2 * D.length = t.length ∧
      ∀ (k : Nat) (h : k < D.length), ∃ c0 c1 v0 v1, t[2 * k]? = some c0 ∧ t[2 * k + 1]? = some c1 ∧
        hexValue u c0 = some v0 ∧ hexValue u c1 = some v1 ∧
        D[k].toNat = (v0.toNat <<< 4) ||| v1.toNat)

/-- The formatter laws, which the spec derives itself in R111. -/
def Obligations.FormatThenParseAndParseThenFormat : Prop :=
  (∀ (u : Bool) (D : List Byte), hexParse u (hexFormat D) = .ok D) ∧
  (∀ (u : Bool) (t : Text) (D : List Byte), hexParse u t = .ok D → hexFormat D = t.map lowerChar) ∧
  (∀ (t : Text) (D : List Byte), hexParse false t = .ok D → hexFormat D = t)

/-- R112 and R113: the header comparison, character by character, and the data portion, which follows the header. -/
def Obligations.HeaderComparedCharacterByCharacter : Prop :=
  ∀ (c : Config) (t : Text), c.wf = true →
    (hasHeader c t = true ↔ 32 ≤ t.length ∧ ∀ k, k < 32 → t[k]? = c.headerText[k]?) ∧
    (hasHeader c t = true → t = c.headerText ++ dataPortion t)

/-- R114: the comparator. -/
def Obligations.EqBytesComparesLengthThenPositions : Prop :=
  ∀ X Y : List Byte, eqBytes X Y = true ↔ X.length = Y.length ∧ ∀ k, k < X.length → X[k]? = Y[k]?

/-! ### ENCODE (41_encode.md) -/

/-- R130: `encodeData` at every position, with the unbounded position index (10_state.md R29 and R44: encoded bytes `2i`
and `2i+1` belong to position `i`, the high nibble's first). -/
def Obligations.EncodeDataAtEveryPosition : Prop :=
  ∀ P : List Byte, (encodeData P).length = 2 * P.length ∧
    ∀ (i : Nat) (h : i < P.length),
      ((encodeData P)[2 * i]?).map BitVec.toNat = some ((((P[i].toNat >>> 4) ^^^ 0xD8) + i) % 256) ∧
      ((encodeData P)[2 * i + 1]?).map BitVec.toNat = some ((((P[i].toNat &&& 0x0F) ^^^ 0xD8) + i) % 256)

/-- ENCODE's completion and result (41_encode.md, R131's pseudocode), on both of its paths. -/
def Obligations.EncodeAnswersEncodedStringOrMalformedHex : Prop :=
  ∀ (s : State) (a b : Text), s.cfg.fits a = true → s.cfg.fits b = true →
    (∀ P, hexParse s.cfg.hexAcceptUpper a = .ok P →
      Answers s (exec (.encode a b) s)
        { status := 0x00#8, out := s.cfg.headerText ++ hexFormat (encodeData P), flag := false }) ∧
    (∀ e, hexParse s.cfg.hexAcceptUpper a = .error e →
      Answers s (exec (.encode a b) s) { status := 0x01#8, out := [], flag := false })

/-- R69 and R133: the layout of the EncodedString that ENCODE answers with, character by character, and its length. -/
def Obligations.EncodedStringLayout : Prop :=
  ∀ (c : Config) (a b : Text) (P : List Byte), c.wf = true → hexParse c.hexAcceptUpper a = .ok P →
    (respond c { op := 0x01#8, a := a, b := b }).out.length = 32 + 4 * P.length ∧
    P.length = a.length / 2 ∧
    (respond c { op := 0x01#8, a := a, b := b }).out.take 32 = c.headerText ∧
    ∀ (i : Nat) (h : i < P.length),
      ((respond c { op := 0x01#8, a := a, b := b }).out.drop (32 + 4 * i)).take 2 =
        hexFormat [xform (split P[i]).1 (posAt i)] ∧
      ((respond c { op := 0x01#8, a := a, b := b }).out.drop (32 + 4 * i + 2)).take 2 =
        hexFormat [xform (split P[i]).2 (posAt i)]

/-- R134: ENCODE's only error is MALFORMED_HEX, exactly when its operand does not parse. -/
def Obligations.EncodeFailsOnlyOnMalformedHex : Prop :=
  ∀ (c : Config) (a b : Text),
    ((respond c { op := 0x01#8, a := a, b := b }).status = 0x00#8 ∨
      (respond c { op := 0x01#8, a := a, b := b }) = { status := 0x01#8, out := [], flag := false }) ∧
    ((respond c { op := 0x01#8, a := a, b := b }).status = 0x01#8 ↔
      a.length % 2 = 1 ∨ ∃ ch ∈ a, hexValue c.hexAcceptUpper ch = none)

/-- R135: an empty payload encodes to the header alone. -/
def Obligations.EmptyPayloadEncodesToHeader : Prop :=
  ∀ (c : Config) (b : Text),
    respond c { op := 0x01#8, a := [], b := b } = { status := 0x00#8, out := c.headerText, flag := false }

/-- What the spec derives itself in R136: equal operands give equal responses whatever operand B is, and with HEX_ACCEPT_UPPER so do operands that
differ only in letter case. -/
def Obligations.EncodeIgnoresLetterCase : Prop :=
  ∀ (c : Config) (a a' b b' : Text), c.hexAcceptUpper = true → a.map lowerChar = a'.map lowerChar →
    respond c { op := 0x01#8, a := a, b := b } = respond c { op := 0x01#8, a := a', b := b' }

/-- What the spec derives itself in R137: ENCODE is injective on payloads, at the byte level and at the level of its OUT. -/
def Obligations.EncodeIsInjectiveOnPayloads : Prop :=
  (∀ P Q : List Byte, encodeData P = encodeData Q → P = Q) ∧
  (∀ (c : Config) (a a' b b' : Text) (P Q : List Byte),
    hexParse c.hexAcceptUpper a = .ok P → hexParse c.hexAcceptUpper a' = .ok Q →
    (respond c { op := 0x01#8, a := a, b := b }).out = (respond c { op := 0x01#8, a := a', b := b' }).out → P = Q)

/-! ### DECODE (42_decode.md) -/

/-- R140: `decodeData` at every position of an even-length byte sequence. -/
def Obligations.DecodeDataAtEveryPosition : Prop :=
  ∀ E : List Byte, E.length % 2 = 0 → 2 * (decodeData E).length = E.length ∧
    ∀ (i : Nat) (h : 2 * i + 1 < E.length), ∃ p : Byte, (decodeData E)[i]? = some p ∧
      p.toNat >>> 4 = (((E[2 * i].toNat + (256 - i % 256)) % 256) ^^^ 0xD8) &&& 0x0F ∧
      p.toNat &&& 0x0F = (((E[2 * i + 1].toNat + (256 - i % 256)) % 256) ^^^ 0xD8) &&& 0x0F

/-- DECODE's completion and result (42_decode.md, R141's pseudocode), with its checks in R149's order: the four cases
exclude each other. -/
def Obligations.DecodeAnswersFirstFailedCheckOrPayload : Prop :=
  ∀ (s : State) (a b : Text), s.cfg.fits a = true → s.cfg.fits b = true →
    (hasHeader s.cfg a = false →
      Answers s (exec (.decode a b) s) { status := 0x02#8, out := [], flag := false }) ∧
    (∀ e, hasHeader s.cfg a = true → hexParse s.cfg.hexAcceptUpper (a.drop 32) = .error e →
      Answers s (exec (.decode a b) s) { status := 0x01#8, out := [], flag := false }) ∧
    (∀ E, hasHeader s.cfg a = true → hexParse s.cfg.hexAcceptUpper (a.drop 32) = .ok E → E.length % 2 = 1 →
      Answers s (exec (.decode a b) s) { status := 0x03#8, out := [], flag := false }) ∧
    (∀ E, hasHeader s.cfg a = true → hexParse s.cfg.hexAcceptUpper (a.drop 32) = .ok E → E.length % 2 = 0 →
      Answers s (exec (.decode a b) s) { status := 0x00#8, out := hexFormat (decodeData E), flag := false })

/-- R142, R143, R144: each DECODE error exactly when the rule says, on the characters of operand A. -/
def Obligations.DecodeErrorConditions : Prop :=
  ∀ (c : Config) (a b : Text), c.wf = true →
    ((respond c { op := 0x02#8, a := a, b := b }).status = 0x02#8 ↔
      a.length < 32 ∨ a.take 32 ≠ c.headerText) ∧
    ((respond c { op := 0x02#8, a := a, b := b }).status = 0x01#8 ↔
      hasHeader c a = true ∧
        ((dataPortion a).length % 2 = 1 ∨ ∃ ch ∈ dataPortion a, hexValue c.hexAcceptUpper ch = none)) ∧
    ((respond c { op := 0x02#8, a := a, b := b }).status = 0x03#8 ↔
      hasHeader c a = true ∧ (∀ ch ∈ dataPortion a, hexValue c.hexAcceptUpper ch ≠ none) ∧
        (dataPortion a).length % 4 = 2)

/-- The strings DECODE accepts, which the spec derives itself in R70, and the length of what it answers with (R145). -/
def Obligations.DecodeAcceptsHeaderAndGroupsOfFour : Prop :=
  ∀ (c : Config) (a b : Text), c.wf = true →
    ((respond c { op := 0x02#8, a := a, b := b }).status = 0x00#8 ↔
      ∃ T : Text, a = c.headerText ++ T ∧ T.length % 4 = 0 ∧ ∀ ch ∈ T, hexValue c.hexAcceptUpper ch ≠ none) ∧
    ((respond c { op := 0x02#8, a := a, b := b }).status = 0x00#8 →
      (respond c { op := 0x02#8, a := a, b := b }).out.length = 2 * ((a.length - 32) / 4) ∧
      2 * ((a.length - 32) / 4) = (a.length - 32) / 2)

/-- What the spec derives itself in R146: the round trip, at the byte level and through the two commands. -/
def Obligations.DecodeOfEncodeIsThePayload : Prop :=
  (∀ P : List Byte, decodeData (encodeData P) = P) ∧
  (∀ (c : Config) (t b b' : Text) (P : List Byte), c.wf = true → hexParse c.hexAcceptUpper t = .ok P →
    respond c { op := 0x02#8, a := (respond c { op := 0x01#8, a := t, b := b }).out, b := b' } =
      { status := 0x00#8, out := hexFormat P, flag := false } ∧
    (t.map lowerChar = t → hexFormat P = t))

/-- What the spec derives itself in R147: DECODE takes non-canonical bytes, and encoding its result gives them back only when every byte is canonical
at its position. -/
def Obligations.EncodeOfDecodeIsIdentityOnlyOnCanonicalBytes : Prop :=
  (∀ (c : Config) (T b : Text) (E : List Byte), c.wf = true → hexParse c.hexAcceptUpper T = .ok E →
    E.length % 2 = 0 →
    respond c { op := 0x02#8, a := c.headerText ++ T, b := b } =
      { status := 0x00#8, out := hexFormat (decodeData E), flag := false }) ∧
  (∀ E : List Byte, E.length % 2 = 0 → (encodeData (decodeData E) = E ↔ AllCanonical E))

/-! ### VALIDATE (43_validate.md) -/

/-- VALIDATE's completion and result (43_validate.md, R160's pseudocode): STATUS OK, empty OUT, and the flag. -/
def Obligations.ValidateAnswersTheComparison : Prop :=
  ∀ (s : State) (a b : Text), s.cfg.fits a = true → s.cfg.fits b = true →
    (∀ P, hexParse s.cfg.hexAcceptUpper a = .ok P → hasHeader s.cfg b = true →
      b.drop 32 = hexFormat (encodeData P) →
      Answers s (exec (.validate a b) s) { status := 0x00#8, out := [], flag := true }) ∧
    ((∀ P, hexParse s.cfg.hexAcceptUpper a = .ok P → hasHeader s.cfg b = true →
      b.drop 32 ≠ hexFormat (encodeData P)) →
      Answers s (exec (.validate a b) s) { status := 0x00#8, out := [], flag := false })

/-- R161: VALIDATE never reports an error: every request gets STATUS OK and an empty OUT, and a malformed payload text,
a missing or wrong header, a data portion of another length and one with any other character get FLAG 0. -/
def Obligations.ValidateNeverReportsAnError : Prop :=
  ∀ (c : Config) (a b : Text),
    (respond c { op := 0x03#8, a := a, b := b }).status = 0x00#8 ∧
    (respond c { op := 0x03#8, a := a, b := b }).out = [] ∧
    ((∃ e, hexParse c.hexAcceptUpper a = .error e) ∨ hasHeader c b = false ∨
        b.length - 32 ≠ 4 * (a.length / 2) ∨
        (∃ P, hexParse c.hexAcceptUpper a = .ok P ∧ dataPortion b ≠ hexFormat (encodeData P)) →
      (respond c { op := 0x03#8, a := a, b := b }).flag = false)

/-- What the spec derives itself in R163 and R165: FLAG is 1 exactly when ENCODE accepts A and B is ENCODE A's output, character for character. -/
def Obligations.ValidateFlagIffOutputOfEncode : Prop :=
  ∀ (c : Config) (a b b' : Text), c.wf = true →
    ((respond c { op := 0x03#8, a := a, b := b }).flag = true ↔
      (respond c { op := 0x01#8, a := a, b := b' }).status = 0x00#8 ∧
        b = (respond c { op := 0x01#8, a := a, b := b' }).out)

/-- What the spec derives itself in R164: any set of changed bits in ENCODE's output, and any change of its length, makes VALIDATE give FLAG 0. -/
def Obligations.ValidateRejectsEveryMutation : Prop :=
  ∀ (c : Config) (a b' s' : Text) (P : List Byte), c.wf = true → hexParse c.hexAcceptUpper a = .ok P →
    ((∃ k : Nat, s'[k]? ≠ ((respond c { op := 0x01#8, a := a, b := b' }).out)[k]?) →
      (respond c { op := 0x03#8, a := a, b := s' }).flag = false) ∧
    (s'.length ≠ (respond c { op := 0x01#8, a := a, b := b' }).out.length →
      (respond c { op := 0x03#8, a := a, b := s' }).flag = false)

/-- What the spec derives itself in R166: where DECODE accepts B, VALIDATE of what it decodes to fails in exactly two cases. -/
def Obligations.ValidateStricterThanDecode : Prop :=
  ∀ (c : Config) (b t b' : Text) (E : List Byte), c.wf = true →
    respond c { op := 0x02#8, a := b, b := b' } = { status := 0x00#8, out := t, flag := false } →
    hexParse c.hexAcceptUpper (dataPortion b) = .ok E →
    ((respond c { op := 0x03#8, a := t, b := b }).flag = false ↔
      ¬ AllCanonical E ∨ ∃ ch ∈ dataPortion b, isUpperHexCode ch = true) ∧
    ((∃ ch ∈ dataPortion b, isUpperHexCode ch = true) → c.hexAcceptUpper = true)

/-! ### Requests, codes and responses (30_encoding.md, 60_exceptions.md) -/

/-- R63 (with R62's codes): the whole OP byte selects the command, and nothing else does. -/
def Obligations.WholeOpByteSelectsCommand : Prop :=
  ∀ (r : Request) (i : Instr), decode r = .ok i ↔
    (r.op.toNat = 1 ∧ i = .encode r.a r.b) ∨ (r.op.toNat = 2 ∧ i = .decode r.a r.b) ∨
    (r.op.toNat = 3 ∧ i = .validate r.a r.b)

/-- Words of five requests decode to what they stand for: those of 95_test_vectors.md section 3's P2 step 1 and P3 steps 2,
3 and 1, and one VALIDATE request of the model's own in the same layout. The word layout is DEDUCED (log 7). -/
def Obligations.RequestWordsOfTheSpecDecode : Prop :=
  decodeWords [0x01, 4, 0x30, 0x30, 0x66, 0x66, 0] = .ok (.encode [0x30#8, 0x30#8, 0x66#8, 0x66#8] []) ∧
  decodeWords [0x01, 2, 0x34, 0x67, 0] = .ok (.encode [0x34#8, 0x67#8] []) ∧
  decodeWords [0x02, 4, 0x64, 0x38, 0x64, 0x38, 0] = .ok (.decode [0x64#8, 0x38#8, 0x64#8, 0x38#8] []) ∧
  decodeWords [0x03, 2, 0x38, 0x38, 1, 0x30] = .ok (.validate [0x38#8, 0x38#8] [0x30#8]) ∧
  decodeWords [0x00, 0, 0] = .error .reservedCode

/-- DECODE AND ENCODE AGREE, on the words of a request (95_test_vectors.md section 3; the word layout is DEDUCED, log 7):
every command, with every operand, is read back from its words, and every request is. -/
def Obligations.DecodeOfEncodedWordsIsTheCommand : Prop :=
  (∀ i : Instr, decodeWords (encodeWords i) = .ok i) ∧ (∀ r : Request, readRequest (requestWords r) = .ok r)

/-- Words that are read as a command are that command's words and no other's (the word layout is DEDUCED, log 7). -/
def Obligations.OnlyItsOwnWordsDecodeToACommand : Prop :=
  ∀ (ws : List Nat) (i : Instr), decodeWords ws = .ok i → ws = encodeWords i

/-- R73 (with R72's notation): each textual form is exactly one request, with `H` the header and operand B empty where none is
written. -/
def Obligations.TextualFormsAreTheirRequests : Prop :=
  ∀ (c : Config) (h h' : Bool) (a b : Text) (op : Byte),
    (AsmLine.encode ⟨h, a⟩).request c = (AsmLine.req 0x01#8 ⟨h, a⟩ ⟨false, []⟩).request c ∧
    (AsmLine.decode ⟨h, a⟩).request c = (AsmLine.req 0x02#8 ⟨h, a⟩ ⟨false, []⟩).request c ∧
    (AsmLine.validate ⟨h, a⟩ ⟨h', b⟩).request c = (AsmLine.req 0x03#8 ⟨h, a⟩ ⟨h', b⟩).request c ∧
    (AsmLine.req op ⟨true, a⟩ ⟨false, b⟩).request c = { op := op, a := c.headerText ++ a, b := b }

/-- R64: a reserved OP is answered with ILLEGAL_COMMAND whatever the operands hold, when a deliver move is next and no
response is finished yet. That the model takes R64's response, where U7 would let it refuse, is log 8. -/
def Obligations.ReservedOpAnswersIllegalCommand : Prop :=
  ∀ (s : State) (r : Request) (es : List Event), s.phase = .busy r → s.pending = none → r.wf s.cfg = true →
    r.op.toNat ≠ 1 → r.op.toNat ≠ 2 → r.op.toNat ≠ 3 → s.inputs = .deliver :: es →
    Answers { s with inputs := es } (step s) { status := 0x04#8, out := [], flag := false }

/-- R66 (with R170's table and R171): which status codes exist, who produces each, that an error response carries nothing
else, and that FLAG is 0 for every command but VALIDATE (R61). -/
def Obligations.StatusCodesAndTheirSources : Prop :=
  ∀ (c : Config) (r : Request),
    (respond c r).status.toNat ≤ 4 ∧
    ((respond c r).status ≠ 0x00#8 → (respond c r).out = [] ∧ (respond c r).flag = false) ∧
    ((respond c r).status = 0x01#8 → r.op = 0x01#8 ∨ r.op = 0x02#8) ∧
    ((respond c r).status = 0x02#8 → r.op = 0x02#8) ∧
    ((respond c r).status = 0x03#8 → r.op = 0x02#8) ∧
    ((respond c r).status = 0x04#8 ↔ r.op ≠ 0x01#8 ∧ r.op ≠ 0x02#8 ∧ r.op ≠ 0x03#8) ∧
    ((respond c r).flag = true → r.op = 0x03#8)

/-- R65: operand B of ENCODE and DECODE, and both operands of a reserved OP, do not change the response; every operand
is still held to the capacity. -/
def Obligations.IgnoredOperandsChangeNothing : Prop :=
  (∀ (c : Config) (a b b' : Text),
    respond c { op := 0x01#8, a := a, b := b } = respond c { op := 0x01#8, a := a, b := b' } ∧
    respond c { op := 0x02#8, a := a, b := b } = respond c { op := 0x02#8, a := a, b := b' }) ∧
  (∀ (c : Config) (op : Byte) (a a' b b' : Text), 3 < op.toNat ∨ op.toNat = 0 →
    respond c { op := op, a := a, b := b } = respond c { op := op, a := a', b := b' }) ∧
  (∀ (s : State) (r : Request) (es : List Event), s.phase = .idle → s.inputs = .issue r :: es →
    (s.cfg.maxTextChars < r.a.length ∨ s.cfg.maxTextChars < r.b.length) → step s = .refused .overCapacity)

/-! ### The commands' completion, frame and refusal -/

/-- Every command within capacity completes with its response, from every state (30_encoding.md R62; 10_state.md R26):
`exec` answers a next state in which exactly `respond` of the command's request is delivered. -/
def Obligations.EveryCommandCompletesWithItsResponse : Prop :=
  ∀ (i : Instr) (s : State), i.wf s.cfg = true → Answers s (exec i s) (respond s.cfg (encode i))

/-- The frame of ENCODE, DECODE and VALIDATE (20_memory.md R48, R49): the constants, the host's moves and the responses
delivered before stay as they are, one response is added, and nothing stays held. -/
def Obligations.CommandsChangeNothingElse : Prop :=
  ∀ (i : Instr) (s t : State), exec i s = .next t →
    t.cfg = s.cfg ∧ t.inputs = s.inputs ∧ t.phase = .idle ∧ t.pending = none ∧ t.freeCount = s.freeCount + 1 ∧
    ∃ r : Response, t.delivered = s.delivered ++ [r] ∧ r.status.toNat ≤ 3

/-- A request with an operand over MAX_TEXT_CHARS, which is at least 32 in a legal configuration, gets no step (R53): its
issue is refused. That exec, a deliver move and a tick refuse it as well, in states that no run reaches, is the model's
choice (log 9). -/
def Obligations.OverCapacityRequestIsRefused : Prop :=
  (∀ c : Config, c.wf = true → 32 ≤ c.maxTextChars) ∧
  (∀ (i : Instr) (s : State), i.wf s.cfg = false → exec i s = .refused .overCapacity) ∧
  (∀ (s : State) (r : Request) (es : List Event), s.phase = .idle → s.inputs = .issue r :: es →
    (s.cfg.maxTextChars < r.a.length ∨ s.cfg.maxTextChars < r.b.length) → step s = .refused .overCapacity) ∧
  (∀ (s : State) (r : Request) (es : List Event), s.phase = .busy r →
    (s.inputs = .deliver :: es ∨ s.inputs = .tick :: es) →
    (s.cfg.maxTextChars < r.a.length ∨ s.cfg.maxTextChars < r.b.length) → step s = .refused .overCapacity)

/-! ### The interface, reset and instances (10_state.md, 70_reset_and_hazards.md) -/

/-- A STEP RUNS THE DECODED COMMAND: where the block is to deliver, by the next move or because no move is left, and the
held request decodes, the step is `exec` of it at the state the move has been taken from. That a Busy instance delivers
when no move is left is the model's choice (log 2). -/
def Obligations.StepRunsTheDecodedCommand : Prop :=
  ∀ (s : State) (r : Request) (i : Instr), s.phase = .busy r → s.pending = none → decode r = .ok i →
    (s.inputs = [] ∨ s.inputs.head? = some .deliver) →
    step s = exec i { s with inputs := s.inputs.tail }

/-- A table word placed by `withFetchWord` (the model's stand-in for the host's issue, log 12) is run by the very next
step. -/
def Obligations.FetchWordIsRunNext : Prop :=
  ∀ (s : State) (w : Nat) (i : Instr), decodeTableWord 8 w = some i →
    step (s.withFetchWord 8 w) = exec i { s.begin (tableRequest w) with inputs := s.inputs } ∧
    Answers s (step (s.withFetchWord 8 w)) (respond s.cfg (encode i))

/-- The phase (R26). From Idle the host's request within capacity makes the instance Busy with it, its working state at
the command's start (`pos` is 0 by R29 for the three commands; for a reserved OP, and for `out`, see log 19); from Busy
exactly one response is delivered and the instance is Idle; the host cannot issue in Busy; reset gives Idle. -/
def Obligations.PhaseMovesBetweenIdleAndBusy : Prop :=
  ∀ (s : State) (r : Request) (es : List Event), s.Inv →
    (s.phase = .idle → s.inputs = .issue r :: es → r.wf s.cfg = true →
      ∃ t, step s = .next t ∧ t.phase = .busy r ∧ t.pending = none ∧ t.work.pos = 0#8 ∧ t.work.out = [] ∧
        t.cfg = s.cfg ∧ t.inputs = es ∧ t.delivered = s.delivered ∧ t.freeCount = s.freeCount) ∧
    (s.phase = .busy r → s.inputs = .deliver :: es →
      Answers { s with inputs := es } (step s) (respond s.cfg r)) ∧
    (∀ r', s.phase = .busy r → s.inputs = .issue r' :: es → step s = .refused .requestWhileBusy) ∧
    (s.inputs = .reset :: es →
      ∃ t, step s = .next t ∧ t.phase = .idle ∧ t.pending = none ∧ t.cfg = s.cfg ∧ t.inputs = es ∧
        t.delivered = s.delivered)

/-- The state right after reset (R190; 10_state.md section 4): Idle, no held request, no pending response, the constants at their values
(10_state.md R24), and the OPEN capacity at least 32 (its value is the model's choice, log 5). -/
def Obligations.ResetStateIsIdleWithTheDefaultConstants : Prop :=
  State.reset.phase = .idle ∧ State.reset.held = none ∧ State.reset.pending = none ∧
  State.reset.cfg.hexAcceptUpper = true ∧ 32 ≤ State.reset.cfg.maxTextChars ∧
  State.reset.cfg.headerText.map BitVec.toNat =
    [0x64, 0x38, 0x61, 0x62, 0x31, 0x39, 0x64, 0x35, 0x63, 0x37, 0x61, 0x30, 0x66, 0x32, 0x37, 0x63,
     0x31, 0x30, 0x66, 0x61, 0x35, 0x37, 0x35, 0x34, 0x30, 0x35, 0x30, 0x36, 0x61, 0x63, 0x36, 0x38] ∧
  hexParse true State.reset.cfg.headerText = .ok [0xD8#8, 0xAB#8, 0x19#8, 0xD5#8, 0xC7#8, 0xA0#8, 0xF2#8, 0x7C#8,
    0x10#8, 0xFA#8, 0x57#8, 0x54#8, 0x05#8, 0x06#8, 0xAC#8, 0x68#8]

/-- A reset while Busy delivers nothing for the abandoned request (R191), then or after any moves that keep the host's
duties, and the same request issued again gets the response it would have got. That the last request is answered when no
move is left, and that an Idle instance's ticks and deliveries change nothing, are the model's choices (log 2, log 14,
log 20). -/
def Obligations.ResetAbandonsTheRequest : Prop :=
  ∀ (s : State) (r : Request) (es : List Event), s.Inv → s.phase = .busy r → s.inputs = .reset :: es →
    (∃ t, step s = .next t ∧ t.phase = .idle ∧ t.pending = none ∧ t.delivered = s.delivered) ∧
    (keepsDuties s.cfg none es = true →
      ∃ u, core.run (es.length + 2) s = .next u ∧ u.delivered = s.delivered ++ owed s.cfg none es) ∧
    (es = [.issue r, .deliver] →
      ∃ u, core.run 3 s = .next u ∧ u.phase = .idle ∧ u.delivered = s.delivered ++ [respond s.cfg r])

/-- The position index of ENCODE and VALIDATE at payload position `i` is `i mod 256` (R29), and one tick processes one
position and moves it on, until the payload is done and the response is finished. That a tick takes one position, counted
by the output's length, is the model's choice (log 6), and so is the output's form, bytes before `hexFormat` (log 19). -/
def Obligations.TickProcessesOnePositionOfEncode : Prop :=
  ∀ (s : State) (r : Request) (a b : Text) (P : List Byte) (es : List Event), s.Inv → s.phase = .busy r →
    (decode r = .ok (.encode a b) ∨ (decode r = .ok (.validate a b) ∧ hasHeader s.cfg b = true)) →
    hexParse s.cfg.hexAcceptUpper a = .ok P → s.pending = none → s.inputs = .tick :: es →
    ∃ t, step s = .next t ∧ t.phase = s.phase ∧ t.cfg = s.cfg ∧ t.delivered = s.delivered ∧ t.inputs = es ∧
      s.work.pos.toNat = (s.work.out.length / 2) % 256 ∧
      (s.work.out.length < 2 * P.length →
        t.pending = none ∧ t.work.out.length = s.work.out.length + 2 ∧
        t.work.pos.toNat = (s.work.pos.toNat + 1) % 256 ∧ t.work.out = (encodeData P).take t.work.out.length) ∧
      (s.work.out.length = 2 * P.length → t.work = s.work ∧ t.pending = some (respond s.cfg r))

/-- The same for DECODE (R29): one tick turns one pair of encoded bytes into one payload byte. That a tick takes one
position, counted by the output's length, is the model's choice (log 6), and so is the output's form, bytes before
`hexFormat` (log 19). -/
def Obligations.TickProcessesOnePositionOfDecode : Prop :=
  ∀ (s : State) (r : Request) (a b : Text) (E : List Byte) (es : List Event), s.Inv → s.phase = .busy r →
    decode r = .ok (.decode a b) → hasHeader s.cfg a = true →
    hexParse s.cfg.hexAcceptUpper (dataPortion a) = .ok E → E.length % 2 = 0 → s.pending = none →
    s.inputs = .tick :: es →
    ∃ t, step s = .next t ∧ t.phase = s.phase ∧ t.cfg = s.cfg ∧ t.delivered = s.delivered ∧ t.inputs = es ∧
      s.work.pos.toNat = s.work.out.length % 256 ∧
      (2 * s.work.out.length < E.length →
        t.pending = none ∧ t.work.out.length = s.work.out.length + 1 ∧
        t.work.pos.toNat = (s.work.pos.toNat + 1) % 256 ∧ t.work.out = (decodeData E).take t.work.out.length) ∧
      (2 * s.work.out.length = E.length → t.work = s.work ∧ t.pending = some (respond s.cfg r))

/-- No step changes the constants or takes back a delivered response, and no step delivers more than one
(10_state.md R23, R24; 20_memory.md R49). The lists of moves and of responses are the model's own (log 2, log 3). -/
def Obligations.StepKeepsTheConstantsAndDeliversAtMostOne : Prop :=
  ∀ s t : State, step s = .next t →
    t.cfg = s.cfg ∧ t.inputs = s.inputs.tail ∧
    (t.delivered = s.delivered ∨ ∃ r, t.delivered = s.delivered ++ [r] ∧ s.phase ≠ .idle ∧ t.phase = .idle)

/-- The two duties of R195 that a host can break are refused in every state, and what keeps them is not. -/
def Obligations.BrokenHostDutiesAreRefused : Prop :=
  ∀ (s : State) (r : Request) (es : List Event), s.inputs = .issue r :: es →
    (∀ q, s.phase = .busy q → step s = .refused .requestWhileBusy) ∧
    (s.phase = .idle → r.wf s.cfg = false → step s = .refused .overCapacity) ∧
    (s.phase = .idle → r.wf s.cfg = true → ∃ t, step s = .next t ∧ t.phase = .busy r)

/-- The invariant holds right after reset. -/
def Obligations.ResetMeetsTheInvariant : Prop := State.reset.Inv

/-- AN INVARIANT THAT EVERY STEP KEEPS: the held request is within capacity, a pending response is the response of the
held request, and an Idle instance holds nothing (10_state.md R26, R28; 20_memory.md R50, R53); the position index and the
output built so far are those of the held request's first positions, as bytes in order, and the header check's result is
there from the start, which are the model's choices (log 6, log 19). -/
def Obligations.EveryStepKeepsTheInvariant : Prop :=
  ∀ s t : State, s.Inv → step s = .next t → t.Inv

/-- What the spec derives itself in R28: two Busy instances with the same constants and the same request deliver the same response, whatever their
working states, their earlier responses and the moves still to come. -/
def Obligations.ResponseDependsOnRequestAndConstantsOnly : Prop :=
  ∀ (s s' : State) (r : Request) (es es' : List Event), s.Inv → s'.Inv → s.cfg = s'.cfg →
    s.phase = .busy r → s'.phase = .busy r → s.inputs = .deliver :: es → s'.inputs = .deliver :: es' →
    ∃ (t t' : State) (resp : Response), step s = .next t ∧ step s' = .next t' ∧
      t.delivered = s.delivered ++ [resp] ∧ t'.delivered = s'.delivered ++ [resp]

/-- The liveness that R197 assumes (92_eei_decisions.md D17; log 14), for every finite LATENCY: after any number of ticks the next delivery answers the held request. -/
def Obligations.EveryFiniteLatencyEndsInTheResponse : Prop :=
  ∀ (s : State) (r : Request) (n : Nat) (es : List Event), s.Inv → s.phase = .busy r →
    s.inputs = List.replicate n .tick ++ .deliver :: es →
    ∃ t, core.run (n + 1) s = .next t ∧ t.phase = .idle ∧ t.inputs = es ∧
      t.delivered = s.delivered ++ [respond s.cfg r]

/-- THE HEADLINE (10_state.md R26, R28; 20_memory.md R50; 70_reset_and_hazards.md R191, R195): whatever moves a
host that keeps its duties makes, with any waits and any resets, no step stops, and the host receives, in order, the
response of each request that no reset abandons, each a function of that request and the constants alone. That the last
request is answered when no move is left, and that an Idle instance's ticks and deliveries change nothing, are the
model's choices (log 2, log 14, log 20). -/
def Obligations.DutifulHostReceivesWhatItIsOwed : Prop :=
  ∀ s : State, s.Inv → keepsDuties s.cfg s.held s.inputs = true →
    ∃ t, core.run (s.inputs.length + 1) s = .next t ∧ t.phase = .idle ∧ t.pending = none ∧ t.inputs = [] ∧
      t.cfg = s.cfg ∧ t.delivered = s.delivered ++ owed s.cfg s.held s.inputs

/-- Instances share nothing but the constants (R179, R50; log 13): a step of one instance is that instance's own step and
changes no other, and steps of two instances give the same in either order. That a step may be a reset of one instance
alone is the model's choice (log 13). -/
def Obligations.InstancesAreIndependent : Prop :=
  ∀ (S S' : System) (j k : Nat), j ≠ k → S.stepAt j = .next S' →
    S'.length = S.length ∧ (∀ m, m ≠ j → S'[m]? = S[m]?) ∧
    (∀ s, S[j]? = some s → ∃ t, step s = .next t ∧ S'[j]? = some t) ∧
    (∀ S'' : System, S'.stepAt k = .next S'' → ∃ T : System, S.stepAt k = .next T ∧ T.stepAt j = .next S'')

/-- R190: reset puts every instance in Idle with no held request and no pending response, and does not change the
constants. -/
def Obligations.ResetPutsEveryInstanceInIdle : Prop :=
  ∀ (S : System) (k : Nat) (s : State), S[k]? = some s →
    ∃ t, S.takeReset[k]? = some t ∧ t.phase = .idle ∧ t.held = none ∧ t.pending = none ∧ t.cfg = s.cfg ∧
      t.delivered = s.delivered
end

