-- ==== Sys2Proof/Laws/State.lean ====
section
/-! SUPPORT. One lemma per field per update of State and Work, each true by unfolding the update once. -/

namespace Sys2Proof.Machine

@[simp] theorem State.release_cfg (s : State) : s.release.cfg = s.cfg := rfl
@[simp] theorem State.release_phase (s : State) : s.release.phase = .idle := rfl
@[simp] theorem State.release_pending (s : State) : s.release.pending = none := rfl
@[simp] theorem State.release_inputs (s : State) : s.release.inputs = s.inputs := rfl
@[simp] theorem State.release_delivered (s : State) : s.release.delivered = s.delivered := rfl
@[simp] theorem State.release_freeCount (s : State) : s.release.freeCount = s.freeCount + 1 := rfl

@[simp] theorem State.deliver_cfg (s : State) (r : Response) : (s.deliver r).cfg = s.cfg := rfl
@[simp] theorem State.deliver_phase (s : State) (r : Response) : (s.deliver r).phase = .idle := rfl
@[simp] theorem State.deliver_pending (s : State) (r : Response) : (s.deliver r).pending = none := rfl
@[simp] theorem State.deliver_inputs (s : State) (r : Response) : (s.deliver r).inputs = s.inputs := rfl
@[simp] theorem State.deliver_delivered (s : State) (r : Response) :
    (s.deliver r).delivered = s.delivered ++ [r] := rfl
@[simp] theorem State.deliver_freeCount (s : State) (r : Response) :
    (s.deliver r).freeCount = s.freeCount + 1 := rfl

@[simp] theorem State.takeReset_cfg (s : State) : s.takeReset.cfg = s.cfg := rfl
@[simp] theorem State.takeReset_phase (s : State) : s.takeReset.phase = .idle := rfl
@[simp] theorem State.takeReset_pending (s : State) : s.takeReset.pending = none := rfl
@[simp] theorem State.takeReset_inputs (s : State) : s.takeReset.inputs = s.inputs := rfl
@[simp] theorem State.takeReset_delivered (s : State) : s.takeReset.delivered = s.delivered := rfl
@[simp] theorem State.takeReset_freeCount (s : State) : s.takeReset.freeCount = s.freeCount + 1 := rfl

@[simp] theorem State.accept_cfg (s : State) (r : Request) (w : Work) : (s.accept r w).cfg = s.cfg := rfl
@[simp] theorem State.accept_phase (s : State) (r : Request) (w : Work) : (s.accept r w).phase = .busy r := rfl
@[simp] theorem State.accept_pending (s : State) (r : Request) (w : Work) : (s.accept r w).pending = none := rfl
@[simp] theorem State.accept_work (s : State) (r : Request) (w : Work) : (s.accept r w).work = w := rfl
@[simp] theorem State.accept_inputs (s : State) (r : Request) (w : Work) : (s.accept r w).inputs = s.inputs := rfl
@[simp] theorem State.accept_delivered (s : State) (r : Request) (w : Work) :
    (s.accept r w).delivered = s.delivered := rfl
@[simp] theorem State.accept_freeCount (s : State) (r : Request) (w : Work) :
    (s.accept r w).freeCount = s.freeCount := rfl

@[simp] theorem State.begin_cfg (s : State) (r : Request) : (s.begin r).cfg = s.cfg := rfl
@[simp] theorem State.begin_phase (s : State) (r : Request) : (s.begin r).phase = .busy r := rfl
@[simp] theorem State.begin_pending (s : State) (r : Request) : (s.begin r).pending = none := rfl
@[simp] theorem State.begin_inputs (s : State) (r : Request) : (s.begin r).inputs = s.inputs := rfl
@[simp] theorem State.begin_delivered (s : State) (r : Request) : (s.begin r).delivered = s.delivered := rfl
@[simp] theorem State.begin_freeCount (s : State) (r : Request) : (s.begin r).freeCount = s.freeCount := rfl
@[simp] theorem State.begin_work (s : State) (r : Request) :
    (s.begin r).work = s.work.start (headerCheck s.cfg r) := rfl

@[simp] theorem Work.start_pos (w : Work) (h : Bool) : (w.start h).pos = 0#8 := rfl
@[simp] theorem Work.start_out (w : Work) (h : Bool) : (w.start h).out = [] := rfl
@[simp] theorem Work.start_headerOk (w : Work) (h : Bool) : (w.start h).headerOk = h := rfl

@[simp] theorem encodePosition_pos (w : Work) (b : Byte) : (encodePosition w b).pos = w.pos + 1#8 := rfl
@[simp] theorem encodePosition_headerOk (w : Work) (b : Byte) : (encodePosition w b).headerOk = w.headerOk := rfl
@[simp] theorem encodePosition_out (w : Work) (b : Byte) :
    (encodePosition w b).out = w.out ++ [xform (split b).1 w.pos, xform (split b).2 w.pos] := rfl

@[simp] theorem decodePosition_pos (w : Work) (e0 e1 : Byte) : (decodePosition w e0 e1).pos = w.pos + 1#8 := rfl
@[simp] theorem decodePosition_headerOk (w : Work) (e0 e1 : Byte) :
    (decodePosition w e0 e1).headerOk = w.headerOk := rfl
@[simp] theorem decodePosition_out (w : Work) (e0 e1 : Byte) :
    (decodePosition w e0 e1).out = w.out ++ [join (ixform e0 w.pos) (ixform e1 w.pos)] := rfl

end Sys2Proof.Machine
end

