-- ==== Sys2Proof/Laws/Step.lean ====
section
/-! SUPPORT. What each shared operation can do, said once: the claims cite these and do not unfold the operations. -/

namespace Sys2Proof.Machine

/-- `answer` either delivers its response or refuses, by the capacity of both operands alone. -/
theorem answer_eq (a b : Text) (r : Response) (s : State) :
    answer a b r s =
      if s.cfg.fits a = true ∧ s.cfg.fits b = true then .next (s.deliver r) else .refused .overCapacity := by
  simp [answer]

/-- A next state of `answer` is the delivery of its response. -/
theorem answer_next {a b : Text} {r : Response} {s t : State} (h : answer a b r s = .next t) :
    s.cfg.fits a = true ∧ s.cfg.fits b = true ∧ t = s.deliver r := by
  rw [answer_eq] at h
  split at h <;> simp_all

/-- Every command is the answer of its request's response. -/
theorem exec_eq_answer (i : Instr) (s : State) :
    exec i s = answer (encode i).a (encode i).b (respond s.cfg (encode i)) s := by
  cases i <;> rfl

/-- A request that decodes is the request of the command it decodes to. -/
theorem encode_of_decode {r : Request} {i : Instr} (h : decode r = .ok i) : encode i = r := by
  obtain ⟨op, a, b⟩ := r
  simp only [decode] at h
  split at h <;> [skip; split at h <;> [skip; split at h]] <;> simp_all [eq_comm, encode]

/-- Serving a request is the answer of its response, reserved or not. -/
theorem serve_eq_answer (r : Request) (s : State) : serve r s = answer r.a r.b (respond s.cfg r) s := by
  unfold serve
  split
  · next e h => simp [answerReserved, respond, h]
  · next i h => rw [exec_eq_answer, encode_of_decode h]

/-- What the host's issue can end in. -/
theorem hostIssue_next {r : Request} {s t : State} (h : hostIssue r s = .next t) :
    s.phase = .idle ∧ r.wf s.cfg = true ∧ t = s.begin r := by
  unfold hostIssue at h
  split at h
  · simp at h
  · split at h <;> simp_all

/-- What a tick can end in: an unchanged state, or one more piece of the work on the held request. -/
theorem blockTick_next {s t : State} (h : blockTick s = .next t) :
    t = s ∨ ∃ r, s.phase = .busy r ∧ s.pending = none ∧ r.wf s.cfg = true ∧
      t = { s with work := (tickWork s.cfg r s.work).1, pending := (tickWork s.cfg r s.work).2 } := by
  unfold blockTick at h
  split at h
  · simp_all
  · split at h
    · split at h <;> simp_all
    · simp at h

/-- What the block's own move can end in: an unchanged Idle state, or the delivery of the finished response or of the
held request's response. -/
theorem blockDeliver_next {s t : State} (h : blockDeliver s = .next t) :
    (s.phase = .idle ∧ t = s) ∨
    ∃ r, s.phase = .busy r ∧ r.wf s.cfg = true ∧
      ((∃ resp, s.pending = some resp ∧ t = s.deliver resp) ∨
        (s.pending = none ∧ t = s.deliver (respond s.cfg r))) := by
  unfold blockDeliver at h
  split at h
  · simp_all
  · obtain ⟨ha, hb, rfl⟩ := answer_next h
    simp_all [Request.wf]
  · rw [serve_eq_answer] at h
    obtain ⟨ha, hb, rfl⟩ := answer_next h
    simp_all [Request.wf]

/-- A step with no move left is the block's own move. -/
theorem step_nil {s : State} (h : s.inputs = []) : step s = blockDeliver s := by simp [step, h]

/-- A step with a move left is that move, taken from the state. -/
theorem step_cons {s : State} {e : Event} {es : List Event} (h : s.inputs = e :: es) :
    step s = move e { s with inputs := es } := by simp [step, h]

end Sys2Proof.Machine
end

