-- ==== Sys2Proof/Laws/Units.lean ====
section
/-! SUPPORT. The loops of encodeData and decodeData taken position by position, and the lengths of hex text: what the
claims about whole byte sequences are proved from. -/

namespace Sys2Proof.Machine

/-- The position counter one position on (10_state.md R29). -/
theorem posAt_succ (i : Nat) : posAt i + 1#8 = posAt (i + 1) := by
  simp [posAt, BitVec.ofNat_add]

/-- The two encoded bytes of a payload byte at a position. -/
def encodePair (i : Nat) (b : Byte) : List Byte := [xform (split b).1 (posAt i), xform (split b).2 (posAt i)]

/-- The encoded bytes of a payload whose first byte stands at position `i`. -/
def encodeFrom (i : Nat) : List Byte → List Byte
  | [] => []
  | b :: P => encodePair i b ++ encodeFrom (i + 1) P

/-- The payload bytes of encoded bytes whose first pair stands at position `i`. -/
def decodeFrom (i : Nat) : List Byte → List Byte
  | e0 :: e1 :: E => join (ixform e0 (posAt i)) (ixform e1 (posAt i)) :: decodeFrom (i + 1) E
  | _ => []

theorem encodeLoop_out (P : List Byte) (w : Work) (i : Nat) (h : w.pos = posAt i) :
    (encodeLoop w P).out = w.out ++ encodeFrom i P := by
  induction P generalizing w i with
  | nil => simp [encodeLoop, encodeFrom]
  | cons b P ih =>
    have := ih (encodePosition w b) (i + 1) (by simp [h, posAt_succ])
    simpa [encodeLoop, encodeFrom, encodePair, h] using this

theorem decodeLoop_out (E : List Byte) (w : Work) (i : Nat) (h : w.pos = posAt i) :
    (decodeLoop w E).out = w.out ++ decodeFrom i E := by
  induction E using List.twoStepInduction generalizing w i with
  | nil => simp [decodeLoop, decodeFrom]
  | singleton e => simp [decodeLoop, decodeFrom]
  | cons_cons e0 e1 E ih _ =>
    have := ih (decodePosition w e0 e1) (i + 1) (by simp [h, posAt_succ])
    simpa [decodeLoop, decodeFrom, h] using this

/-- `encodeData` without its working state: the pairs of the positions from 0 (41_encode.md R130). -/
theorem encodeData_eq (P : List Byte) : encodeData P = encodeFrom 0 P := by
  simpa [encodeData] using encodeLoop_out P ⟨0#8, 0#8, 0#4, [], false⟩ 0 rfl

/-- `decodeData` without its working state (42_decode.md R140). -/
theorem decodeData_eq (E : List Byte) : decodeData E = decodeFrom 0 E := by
  simpa [decodeData] using decodeLoop_out E ⟨0#8, 0#8, 0#4, [], false⟩ 0 rfl

theorem encodeFrom_append (P Q : List Byte) (i : Nat) :
    encodeFrom i (P ++ Q) = encodeFrom i P ++ encodeFrom (i + P.length) Q := by
  induction P generalizing i with
  | nil => simp [encodeFrom]
  | cons b P ih => simp [encodeFrom, ih, Nat.add_assoc, Nat.add_comm 1]

theorem encodeFrom_length (P : List Byte) (i : Nat) : (encodeFrom i P).length = 2 * P.length := by
  induction P generalizing i with
  | nil => rfl
  | cons b P ih => simp [encodeFrom, encodePair, ih]; omega

theorem decodeFrom_length (E : List Byte) (i : Nat) : (decodeFrom i E).length = E.length / 2 := by
  induction E using List.twoStepInduction generalizing i with
  | nil => rfl
  | singleton e => simp [decodeFrom]
  | cons_cons e0 e1 E ih _ => simp [decodeFrom, ih]; omega

theorem encodeFrom_getElem? (P : List Byte) (j i : Nat) (h : i < P.length) :
    (encodeFrom j P)[2 * i]? = some (xform (split P[i]).1 (posAt (j + i))) ∧
      (encodeFrom j P)[2 * i + 1]? = some (xform (split P[i]).2 (posAt (j + i))) := by
  induction P generalizing j i with
  | nil => simp at h
  | cons b P ih =>
    cases i with
    | zero => simp [encodeFrom, encodePair]
    | succ i =>
      have := ih (j + 1) i (by simpa using h)
      simpa [encodeFrom, encodePair, Nat.mul_add, Nat.add_assoc, Nat.add_comm 1] using this

theorem decodeFrom_append (E F : List Byte) (j : Nat) (h : E.length % 2 = 0) :
    decodeFrom j (E ++ F) = decodeFrom j E ++ decodeFrom (j + E.length / 2) F := by
  induction E using List.twoStepInduction generalizing j with
  | nil => simp [decodeFrom]
  | singleton e => simp at h
  | cons_cons e0 e1 E ih _ =>
    have hE : E.length % 2 = 0 := by simp at h; omega
    have hj : j + 1 + E.length / 2 = j + (E.length + 1 + 1) / 2 := by omega
    simp [decodeFrom, ih (j + 1) hE, hj]

theorem hexFormat_append (D E : List Byte) : hexFormat (D ++ E) = hexFormat D ++ hexFormat E := by
  induction D with
  | nil => rfl
  | cons b D ih => simp [hexFormat, ih]

/-- Two characters a byte (40_datapath_units.md R109). -/
theorem hexFormat_length (D : List Byte) : (hexFormat D).length = 2 * D.length := by
  induction D with
  | nil => rfl
  | cons b D ih => simp [hexFormat, ih]; omega

/-- The one error of `hexParse` (40_datapath_units.md R110). -/
theorem hexParse_error (u : Bool) (t : Text) (e : ErrorKind) (h : hexParse u t = .error e) :
    e = .malformedHex := by
  induction t using List.twoStepInduction with
  | nil => simp [hexParse] at h
  | singleton ch => simpa [hexParse, eq_comm] using h
  | cons_cons c0 c1 t _ _ =>
    simp only [hexParse] at h
    split at h <;> simp_all

/-- Parsing fails with its one error or gives bytes (40_datapath_units.md R110). -/
theorem hexParse_cases (u : Bool) (t : Text) :
    hexParse u t = .error .malformedHex ∨ ∃ D, hexParse u t = .ok D := by
  rcases h : hexParse u t with e | D
  · exact .inl (by rw [hexParse_error u t e h])
  · exact .inr ⟨D, rfl⟩

/-- The comparator is equality (40_datapath_units.md R114). -/
theorem eqBytes_iff_eq (X Y : List Byte) : eqBytes X Y = true ↔ X = Y := by
  induction X generalizing Y with
  | nil => cases Y <;> simp [eqBytes]
  | cons x X ih => cases Y <;> simp [eqBytes, ih]

/-- A header that compares equal is the front of the text (40_datapath_units.md R112). -/
theorem hasHeader_iff (c : Config) (t : Text) :
    hasHeader c t = true ↔ 32 ≤ t.length ∧ t.take 32 = c.headerText := by
  simp [hasHeader]

end Sys2Proof.Machine
end

