-- ==== Sys2Proof/Laws/Invariant.lean ====
section
/-! SUPPORT. The small facts about the invariant and about answers that the claims on the interface are put together
from. -/

namespace Sys2Proof.Machine

@[simp] theorem State.held_of_idle {s : State} (h : s.phase = .idle) : s.held = none := by simp [State.held, h]

@[simp] theorem State.held_of_busy {s : State} {r : Request} (h : s.phase = .busy r) : s.held = some r := by
  simp [State.held, h]

/-- `answer` within capacity is an answer. -/
theorem answer_answers (a b : Text) (r : Response) (s : State) (ha : s.cfg.fits a = true)
    (hb : s.cfg.fits b = true) : Answers s (answer a b r s) r := by
  rw [answer_eq, if_pos ⟨ha, hb⟩]
  exact ⟨_, rfl, by simp⟩

/-- What the invariant says of a Busy instance. -/
theorem State.Inv.of_busy {s : State} {r : Request} (h : s.Inv) (hp : s.phase = .busy r) :
    s.cfg.wf = true ∧ r.wf s.cfg = true ∧ (s.pending = none ∨ s.pending = some (respond s.cfg r)) ∧
      WorkOk s.cfg r s.work := by
  simpa [State.Inv, hp] using h

/-- The start of a command is the work on its first no positions. -/
theorem workOk_start (c : Config) (r : Request) (w : Work) : WorkOk c r (w.start (headerCheck c r)) := by
  refine ⟨rfl, ?_⟩
  split
  · trivial
  · intro P _
    simp [EncodeProgress, encodeData_eq, encodeFrom, posAt]
  · intro E _
    simp [DecodeProgress, decodeData_eq, decodeFrom, posAt]
  · intro P _
    simp [EncodeProgress, encodeData_eq, encodeFrom, posAt]

/-- Taking up a request within capacity meets the invariant. -/
theorem State.begin_inv {s : State} {r : Request} (hc : s.cfg.wf = true) (hw : r.wf s.cfg = true) :
    (s.begin r).Inv := by
  simp [State.Inv, hc, hw, workOk_start]

/-- The end of a transaction meets the invariant. -/
theorem State.release_inv {s : State} (hc : s.cfg.wf = true) : s.release.Inv := ⟨hc, rfl⟩

/-- A delivery meets the invariant. -/
theorem State.deliver_inv {s : State} (r : Response) (hc : s.cfg.wf = true) : (s.deliver r).Inv := ⟨hc, rfl⟩

/-- The invariant does not look at the moves still to come. -/
theorem State.inv_of_inputs {s : State} (es : List Event) (h : s.Inv) : State.Inv { s with inputs := es } := h

/-- A run whose first step answers a next state goes on from it. -/
theorem run_succ (n : Nat) {s t : State} (h : step s = .next t) :
    Host.Core.run core (n + 1) s = Host.Core.run core n t := by
  have : core.step s = .next t := h
  simp [Host.Core.run, this]

end Sys2Proof.Machine
end

