-- ==== Sys2Proof/Laws/PerInstr.lean ====
section
/-! SUPPORT. Facts stated for every command as syntax, one lemma per constructor (LAWS.json). -/

/-- The request of a command carries its code and both its operands within the same capacity (30_encoding.md R62,
R65): the request is within capacity exactly when the command is, and its OP is not reserved. -/
def Sys2Proof.Laws.OpCode.Statement (i : Sys2Proof.Instr) : Prop :=
  (∀ c : Sys2Proof.Config, (Sys2Proof.encode i).wf c = i.wf c) ∧
    0 < (Sys2Proof.encode i).op.toNat ∧ (Sys2Proof.encode i).op.toNat ≤ 3

theorem Sys2Proof.Laws.OpCode.encode (a b : Sys2Proof.Text) : Sys2Proof.Laws.OpCode.Statement (.encode a b) :=
  ⟨fun _ => rfl, by simp [Sys2Proof.encode], by simp [Sys2Proof.encode]⟩

theorem Sys2Proof.Laws.OpCode.decode (a b : Sys2Proof.Text) : Sys2Proof.Laws.OpCode.Statement (.decode a b) :=
  ⟨fun _ => rfl, by simp [Sys2Proof.encode], by simp [Sys2Proof.encode]⟩

theorem Sys2Proof.Laws.OpCode.validate (a b : Sys2Proof.Text) : Sys2Proof.Laws.OpCode.Statement (.validate a b) :=
  ⟨fun _ => rfl, by simp [Sys2Proof.encode], by simp [Sys2Proof.encode]⟩
end

