-- ==== Sys2Proof/Tests/Slice0.lean ====
section
/-! SUPPORT. The model's own tests. Expected results are the spec's (95_test_vectors.md), each test names its source;
the witness theorems show that each statement's hypotheses can be met, clause by clause. -/

namespace Sys2Proof.Tests

open Sys2Proof
open Sys2Proof.Machine

/-- Text in ASCII codes (20_memory.md R41). -/
def txt (s : String) : Text := s.toList.map (fun ch => BitVec.ofNat 8 ch.toNat)

/-- The header `H` of 95_test_vectors.md. -/
def hdr : Text := txt "d8ab19d5c7a0f27c10fa57540506ac68"

/-- The default configuration with HEX_ACCEPT_UPPER = false. -/
def lowerOnly : Config := { defaultConfig with hexAcceptUpper := false }

/-- The smallest capacity. -/
def smallest : Config := { defaultConfig with maxTextChars := 32 }

/-- A configuration's Idle instance with the given moves to come. -/
def idleWith (c : Config) (es : List Event) : State := { State.reset with cfg := c, inputs := es }

/-- The instance has taken up a request, with the given moves to come. -/
def busyWith (c : Config) (r : Request) (es : List Event) : State := (idleWith c es).begin r

/-- The responses delivered by one step. -/
def answered (s : State) : List Response :=
  match step s with
  | .next t => t.delivered
  | .fault f => nomatch f
  | .refused _ => []

/-! ### Well-formedness refuses an ill-formed term of each kind -/

theorem test_wf_header_short : ({ defaultConfig with headerText := hdr.take 31 } : Config).wf = false := by decide
theorem test_wf_header_uppercase :
    ({ defaultConfig with headerText := 0x44#8 :: hdr.drop 1 } : Config).wf = false := by decide
theorem test_wf_capacity_small : ({ defaultConfig with maxTextChars := 31 } : Config).wf = false := by decide
theorem test_wf_encode_operand_a : (Instr.encode (List.replicate 33 0x30#8) []).wf smallest = false := by decide
theorem test_wf_encode_operand_b : (Instr.encode [] (List.replicate 33 0x30#8)).wf smallest = false := by decide
theorem test_wf_decode_operand_a : (Instr.decode (List.replicate 33 0x30#8) []).wf smallest = false := by decide
theorem test_wf_decode_operand_b : (Instr.decode [] (List.replicate 33 0x30#8)).wf smallest = false := by decide
theorem test_wf_validate_operand_a : (Instr.validate (List.replicate 33 0x30#8) []).wf smallest = false := by decide
theorem test_wf_validate_operand_b : (Instr.validate [] (List.replicate 33 0x30#8)).wf smallest = false := by decide
theorem test_wf_request_operands :
    Request.wf smallest ⟨0x00#8, List.replicate 33 0x30#8, []⟩ = false ∧
    Request.wf smallest ⟨0x00#8, [], List.replicate 33 0x30#8⟩ = false ∧
    Request.wf smallest ⟨0x00#8, List.replicate 32 0x30#8, List.replicate 32 0x30#8⟩ = true := by decide

/-! ### Decoding: OP written out bit by bit from 30_encoding.md R62, operands from 95_test_vectors.md section 3 -/

theorem test_decode_word_encode : decodeTableWord 8 0b00000001 = some (.encode [] []) := by decide
theorem test_decode_word_decode : decodeTableWord 8 0b00000010 = some (.decode [] []) := by decide
theorem test_decode_word_validate : decodeTableWord 8 0b00000011 = some (.validate [] []) := by decide
/-- 95_test_vectors.md section 2.8: 0x00, 0x04, 0x81 and 0xFF are reserved. -/
theorem test_decode_word_reserved :
    decodeTableWord 8 0x00 = none ∧ decodeTableWord 8 0x04 = none ∧ decodeTableWord 8 0b10000001 = none ∧
    decodeTableWord 8 0xFF = none := by decide
/-- P1 step 1 of 95_test_vectors.md section 3. -/
theorem test_decode_words_encode :
    decodeWords [0x01, 10, 0x34, 0x38, 0x36, 0x35, 0x36, 0x63, 0x36, 0x63, 0x36, 0x66, 0] =
      .ok (.encode (txt "48656c6c6f") []) := by decide
/-- P3 step 3 of 95_test_vectors.md section 3. -/
theorem test_decode_words_decode :
    decodeWords [0x02, 4, 0x64, 0x38, 0x64, 0x38, 0] = .ok (.decode (txt "d8d8") []) := by decide
/-- P3 step 7 of 95_test_vectors.md section 3. -/
theorem test_decode_words_validate :
    decodeWords ([0x03, 2, 0x38, 0x38, 36] ++ hdr.map BitVec.toNat ++ [0x30, 0x30, 0x30, 0x30]) =
      .ok (.validate (txt "88") (hdr ++ txt "0000")) := by decide
theorem test_decode_words_rejected :
    decodeWords [] = .error .truncated ∧ decodeWords [0x01, 2, 0x34] = .error .truncated ∧
    decodeWords [0x101, 0, 0] = .error .opNotByte ∧ decodeWords [0x01, 1, 0x100, 0] = .error .charNotByte ∧
    decodeWords [0x01, 0, 0, 0] = .error .trailing ∧ decodeWords [0x04, 0, 0] = .error .reservedCode := by decide

/-! ### The units (95_test_vectors.md sections 2.1 to 2.4) -/

theorem test_header_text : defaultHeaderText = hdr := by decide
theorem test_split_and_join :
    split 0xA5#8 = (0xA#4, 0x5#4) ∧ split 0x0F#8 = (0x0#4, 0xF#4) ∧ join 0xF#4 0x0#4 = 0xF0#8 := by decide
theorem test_xform :
    xform 0x6#4 (posAt 1) = 0xDF#8 ∧ xform 0x7#4 (posAt 1) = 0xE0#8 ∧ xform 0xF#4 (posAt 41) = 0x00#8 ∧
    xform 0x0#4 (posAt 255) = 0xD7#8 ∧ xform 0x0#4 (posAt 256) = 0xD8#8 ∧ xform 0x3#4 (posAt 300) = 0x07#8 := by decide
theorem test_ixform :
    ixform 0xDF#8 (posAt 1) = 0x6#4 ∧ ixform 0x00#8 (posAt 41) = 0xF#4 ∧ ixform 0xD7#8 (posAt 255) = 0x0#4 ∧
    ixform 0xFF#8 (posAt 0) = 0x7#4 ∧ ixform 0x12#8 (posAt 7) = 0x3#4 := by decide
theorem test_hex_text :
    hexFormat [0x00#8, 0xAB#8, 0xFF#8] = txt "00abff" ∧ hexParse true (txt "Ab") = .ok [0xAB#8] ∧
    hexParse false (txt "Ab") = .error .malformedHex ∧ hexParse true (txt "0x00") = .error .malformedHex ∧
    hexParse true (txt " 00") = .error .malformedHex := by decide
theorem test_header_comparator :
    hasHeader defaultConfig hdr = true ∧ hasHeader defaultConfig (hdr.take 31) = false ∧
    hasHeader defaultConfig (0x44#8 :: hdr.drop 1) = false ∧
    hasHeader defaultConfig (0x78#8 :: hdr) = false := by decide

/-! ### One step of each command (95_test_vectors.md sections 2.5 to 2.9) -/

/-- Section 2.5, "He"; operand B is ignored. -/
theorem test_encode_he :
    answered (busyWith defaultConfig ⟨0x01#8, txt "4865", txt "ignored-B"⟩ [.deliver]) =
      [⟨0x00#8, hdr ++ txt "dcd0dfde", false⟩] := by decide
/-- Section 2.5, a non-hex character. -/
theorem test_encode_malformed :
    answered (busyWith defaultConfig ⟨0x01#8, txt "4g", []⟩ [.deliver]) = [⟨0x01#8, [], false⟩] := by decide
/-- Section 2.6, "He". -/
theorem test_decode_he :
    answered (busyWith defaultConfig ⟨0x02#8, hdr ++ txt "dcd0dfde", []⟩ []) = [⟨0x00#8, txt "4865", false⟩] := by decide
/-- Section 2.6: odd and non-hex gives MALFORMED_HEX, three encoded bytes LENGTH_MISMATCH, no header HEADER_MISMATCH. -/
theorem test_decode_errors :
    answered (busyWith defaultConfig ⟨0x02#8, hdr ++ txt "zzz", []⟩ [.deliver]) = [⟨0x01#8, [], false⟩] ∧
    answered (busyWith defaultConfig ⟨0x02#8, hdr ++ txt "d8d8d8", []⟩ [.deliver]) = [⟨0x03#8, [], false⟩] ∧
    answered (busyWith defaultConfig ⟨0x02#8, txt "zz", []⟩ [.deliver]) = [⟨0x02#8, [], false⟩] := by decide
/-- Section 2.7, soundness. -/
theorem test_validate_accepts :
    answered (busyWith defaultConfig ⟨0x03#8, txt "FF", hdr ++ txt "d7d7"⟩ [.deliver]) = [⟨0x00#8, [], true⟩] := by decide
/-- Section 2.7: an uppercase data portion and a pair that only DECODE accepts. -/
theorem test_validate_rejects :
    answered (busyWith defaultConfig ⟨0x03#8, txt "00", hdr ++ txt "D8D8"⟩ [.deliver]) = [⟨0x00#8, [], false⟩] ∧
    answered (busyWith defaultConfig ⟨0x03#8, txt "88", hdr ++ txt "0000"⟩ [.deliver]) = [⟨0x00#8, [], false⟩] := by decide
/-- Section 2.8. -/
theorem test_reserved :
    answered (busyWith defaultConfig ⟨0x81#8, txt "00", []⟩ [.deliver]) = [⟨0x04#8, [], false⟩] := by decide
/-- The OUT of a table word's ENCODE straight after reset is the header (section 2.5, `ENCODE ""`). -/
theorem test_fetch_word : answered (State.reset.withFetchWord 8 1) = [⟨0x00#8, hdr, false⟩] := by decide

/-! ### Witnesses: the hypotheses of each statement are met by a concrete state and operands -/

theorem witness_HeaderComparedCharacterByCharacter :
    defaultConfig.wf = true ∧ hasHeader defaultConfig (hdr ++ txt "zz") = true := by decide
theorem witness_OutputsAreLowercaseHexDigits :
    defaultConfig.wf = true ∧ (9#4).toNat ≤ 9 ∧ 10 ≤ (10#4).toNat ∧
    0x64#8 ∈ (respond defaultConfig ⟨0x01#8, [], []⟩).out := by decide
theorem witness_HexValueOfEveryCharacter :
    (hexValue true 0x30#8 = some 0x0#4 ∧ hexValue true 0x39#8 = some 0x9#4) ∧
    (hexValue true 0x61#8 = some 0xA#4 ∧ hexValue true 0x66#8 = some 0xF#4) ∧
    (hexValue true 0x41#8 = some 0xA#4 ∧ hexValue true 0x46#8 = some 0xF#4 ∧ hexValue false 0x46#8 = none) ∧
    (∀ k ∈ [0x00, 0x2F, 0x3A, 0x40, 0x47, 0x60, 0x67, 0xFF], hexValue true (BitVec.ofNat 8 k) = none) ∧
    0x2F#8 ∈ txt "0/" := by decide
theorem witness_HexFormatWritesHighDigitFirst : 0 < [0x05#8].length ∧ 0x35#8 ∈ hexFormat [0x05#8] := by decide
theorem witness_EncodeDataAtEveryPosition : 1 < [0x48#8, 0x65#8].length := by decide
theorem witness_EqBytesComparesLengthThenPositions :
    eqBytes [0x01#8, 0x02#8] [0x01#8, 0x02#8] = true ∧ eqBytes [0x01#8] [0x01#8, 0x02#8] = false := by decide
theorem witness_HexParseAcceptsExactlyHexText :
    hexParse true (txt "0g") = .error .malformedHex ∧ hexParse true (txt "abc") = .error .malformedHex ∧
    hexParse true (txt "0f") = .ok [0x0F#8] := by decide
theorem witness_FormatThenParseAndParseThenFormat :
    hexParse true (txt "AB") = .ok [0xAB#8] ∧ hexParse false (txt "ab") = .ok [0xAB#8] := by decide
/-- Operands at the capacity itself, for both clauses. -/
theorem witness_EncodeAnswersEncodedStringOrMalformedHex :
    smallest.fits (List.replicate 32 0x30#8) = true ∧
    hexParse true (List.replicate 32 0x30#8) = .ok (List.replicate 16 0x00#8) ∧
    hexParse true (txt "4g") = .error .malformedHex := by decide
theorem witness_EncodedStringLayout :
    defaultConfig.wf = true ∧ hexParse defaultConfig.hexAcceptUpper (txt "48") = .ok [0x48#8] := by decide
theorem witness_EncodeIgnoresLetterCase :
    defaultConfig.hexAcceptUpper = true ∧ (txt "fF").map lowerChar = (txt "Ff").map lowerChar := by decide
theorem witness_EncodeIsInjectiveOnPayloads :
    hexParse true (txt "FF") = .ok [0xFF#8] ∧ hexParse true (txt "ff") = .ok [0xFF#8] ∧
    (respond defaultConfig ⟨0x01#8, txt "FF", []⟩).out = (respond defaultConfig ⟨0x01#8, txt "ff", []⟩).out := by decide
theorem witness_DecodeDataAtEveryPosition : [0xDC#8, 0xD0#8].length % 2 = 0 ∧ 2 * 0 + 1 < [0xDC#8, 0xD0#8].length := by
  decide
theorem witness_DecodeAnswersFirstFailedCheckOrPayload :
    hasHeader smallest (hdr.take 31) = false ∧
    (hasHeader defaultConfig (hdr ++ txt "a") = true ∧
      hexParse true ((hdr ++ txt "a").drop 32) = .error .malformedHex) ∧
    (hasHeader defaultConfig (hdr ++ txt "d8") = true ∧ hexParse true ((hdr ++ txt "d8").drop 32) = .ok [0xD8#8]) ∧
    (hasHeader smallest hdr = true ∧ smallest.fits hdr = true ∧ hexParse true (hdr.drop 32) = .ok []) := by decide
theorem witness_DecodeErrorConditions : smallest.wf = true ∧ lowerOnly.wf = true := by decide
theorem witness_DecodeAcceptsHeaderAndGroupsOfFour :
    defaultConfig.wf = true ∧ (respond defaultConfig ⟨0x02#8, hdr ++ txt "D8d8", []⟩).status = 0x00#8 := by decide
theorem witness_DecodeOfEncodeIsThePayload :
    defaultConfig.wf = true ∧ hexParse defaultConfig.hexAcceptUpper (txt "4f") = .ok [0x4F#8] ∧
    (txt "4f").map lowerChar = txt "4f" := by decide
theorem witness_EncodeOfDecodeIsIdentityOnlyOnCanonicalBytes :
    defaultConfig.wf = true ∧ hexParse defaultConfig.hexAcceptUpper (txt "0000") = .ok [0x00#8, 0x00#8] := by decide
theorem witness_ValidateAnswersTheComparison :
    (hexParse true (txt "00") = .ok [0x00#8] ∧ hasHeader defaultConfig (hdr ++ txt "d8d8") = true ∧
      (hdr ++ txt "d8d8").drop 32 = hexFormat (encodeData [0x00#8])) ∧
    (hexParse true (txt "0") = .error .malformedHex) ∧
    (hasHeader defaultConfig (hdr ++ txt "d8d9") = true ∧
      (hdr ++ txt "d8d9").drop 32 ≠ hexFormat (encodeData [0x00#8])) := by decide
theorem witness_ValidateNeverReportsAnError :
    hexParse true (txt "zz") = .error .malformedHex ∧ hasHeader defaultConfig (txt "d8d8") = false ∧
    (hdr ++ txt "d8d8 ").length - 32 ≠ 4 * ((txt "00").length / 2) ∧
    dataPortion (hdr ++ txt "d8d9") ≠ hexFormat (encodeData [0x00#8]) := by decide
theorem witness_ValidateFlagIffOutputOfEncode :
    lowerOnly.wf = true ∧ (respond lowerOnly ⟨0x03#8, txt "ff", hdr ++ txt "d7d7"⟩).flag = true := by decide
theorem witness_ValidateRejectsEveryMutation :
    defaultConfig.wf = true ∧ hexParse defaultConfig.hexAcceptUpper (txt "00") = .ok [0x00#8] ∧
    (hdr ++ txt "d8d9")[35]? ≠ (respond defaultConfig ⟨0x01#8, txt "00", []⟩).out[35]? ∧
    (hdr ++ txt "d8").length ≠ (respond defaultConfig ⟨0x01#8, txt "00", []⟩).out.length := by decide
theorem witness_ValidateStricterThanDecode :
    defaultConfig.wf = true ∧
    respond defaultConfig ⟨0x02#8, hdr ++ txt "D8d8", []⟩ = ⟨0x00#8, txt "00", false⟩ ∧
    hexParse defaultConfig.hexAcceptUpper (dataPortion (hdr ++ txt "D8d8")) = .ok [0xD8#8, 0xD8#8] ∧
    (dataPortion (hdr ++ txt "D8d8")).any isUpperHexCode = true ∧ isCanonical 0x00#8 (posAt 0) = false := by decide
theorem witness_OnlyItsOwnWordsDecodeToACommand : decodeWords [0x02, 0, 1, 0xFF] = .ok (.decode [] [0xFF#8]) := by
  decide
theorem witness_ReservedOpAnswersIllegalCommand :
    ∀ op ∈ [0x00#8, 0x04#8, 0xFF#8],
      (busyWith smallest ⟨op, hdr, hdr⟩ [.deliver]).phase = .busy ⟨op, hdr, hdr⟩ ∧
      (busyWith smallest ⟨op, hdr, hdr⟩ [.deliver]).pending = none ∧ Request.wf smallest ⟨op, hdr, hdr⟩ = true ∧
      op.toNat ≠ 1 ∧ op.toNat ≠ 2 ∧ op.toNat ≠ 3 := by decide
theorem witness_StatusCodesAndTheirSources :
    (respond defaultConfig ⟨0x01#8, txt "4", []⟩).status = 0x01#8 ∧
    (respond defaultConfig ⟨0x02#8, hdr ++ txt "4", []⟩).status = 0x01#8 ∧
    (respond defaultConfig ⟨0x02#8, [], []⟩).status = 0x02#8 ∧
    (respond defaultConfig ⟨0x02#8, hdr ++ txt "d8", []⟩).status = 0x03#8 ∧
    (respond defaultConfig ⟨0x04#8, [], []⟩).status = 0x04#8 ∧
    (respond defaultConfig ⟨0x03#8, [], hdr⟩).flag = true := by decide
theorem witness_IgnoredOperandsChangeNothing :
    3 < (0x04#8).toNat ∧ (0x00#8).toNat = 0 ∧
    (idleWith smallest [.issue ⟨0x00#8, [], List.replicate 33 0x30#8⟩]).phase = .idle ∧
    smallest.maxTextChars < (List.replicate 33 0x30#8).length := by decide
theorem witness_EveryCommandCompletesWithItsResponse :
    (Instr.encode hdr hdr).wf smallest = true ∧ (Instr.decode hdr hdr).wf smallest = true ∧
    (Instr.validate hdr hdr).wf smallest = true := by decide
theorem witness_CommandsChangeNothingElse :
    (∃ t, exec (.encode hdr hdr) (idleWith smallest []) = .next t) ∧
    (∃ t, exec (.decode hdr hdr) (idleWith smallest []) = .next t) ∧
    (∃ t, exec (.validate hdr hdr) (idleWith smallest []) = .next t) :=
  ⟨⟨_, rfl⟩, ⟨_, rfl⟩, ⟨_, rfl⟩⟩
theorem witness_OverCapacityRequestIsRefused :
    smallest.wf = true ∧ (Instr.decode (List.replicate 33 0x30#8) []).wf smallest = false ∧
    (idleWith smallest [.issue ⟨0x02#8, List.replicate 33 0x30#8, []⟩]).phase = .idle ∧
    (busyWith smallest ⟨0x02#8, List.replicate 33 0x30#8, []⟩ [.tick]).phase =
      .busy ⟨0x02#8, List.replicate 33 0x30#8, []⟩ := by decide
theorem witness_StepRunsTheDecodedCommand :
    (busyWith defaultConfig ⟨0x03#8, [], hdr⟩ []).pending = none ∧ decode ⟨0x03#8, [], hdr⟩ = .ok (.validate [] hdr) ∧
    (busyWith defaultConfig ⟨0x03#8, [], hdr⟩ []).inputs = [] ∧
    (busyWith defaultConfig ⟨0x03#8, [], hdr⟩ [.deliver]).inputs.head? = some .deliver := by decide
theorem witness_FetchWordIsRunNext :
    decodeTableWord 8 0x01 = some (.encode [] []) ∧ decodeTableWord 8 0x03 = some (.validate [] []) := by decide

/-- A Busy instance within capacity meets the invariant. -/
theorem busyWith_inv (c : Config) (r : Request) (es : List Event) (hc : c.wf = true) (hw : r.wf c = true) :
    (busyWith c r es).Inv := State.begin_inv hc hw

theorem witness_PhaseMovesBetweenIdleAndBusy :
    (idleWith smallest [.issue ⟨0x01#8, hdr, hdr⟩]).Inv ∧ Request.wf smallest ⟨0x01#8, hdr, hdr⟩ = true ∧
    (busyWith smallest ⟨0x01#8, hdr, hdr⟩ [.deliver]).Inv ∧
    (busyWith smallest ⟨0x01#8, hdr, hdr⟩ [.issue ⟨0x02#8, [], []⟩]).Inv ∧
    (busyWith smallest ⟨0x01#8, hdr, hdr⟩ [.reset]).Inv :=
  ⟨⟨by decide, rfl⟩, by decide, busyWith_inv _ _ _ (by decide) (by decide), busyWith_inv _ _ _ (by decide) (by decide),
    busyWith_inv _ _ _ (by decide) (by decide)⟩
theorem witness_ResetAbandonsTheRequest :
    (busyWith defaultConfig ⟨0x01#8, txt "00", []⟩ [.reset, .issue ⟨0x01#8, txt "00", []⟩, .deliver]).Inv ∧
    keepsDuties defaultConfig none [.issue ⟨0x01#8, txt "00", []⟩, .deliver] = true :=
  ⟨busyWith_inv _ _ _ (by decide) (by decide), by decide⟩
/-- Before the first position (`out` is empty, the payload is not), for ENCODE and VALIDATE, and after the last (the
payload is empty). -/
theorem witness_TickProcessesOnePositionOfEncode :
    (busyWith defaultConfig ⟨0x01#8, txt "00", []⟩ [.tick]).Inv ∧
    (busyWith defaultConfig ⟨0x03#8, txt "00", hdr⟩ [.tick]).Inv ∧
    (busyWith defaultConfig ⟨0x01#8, [], []⟩ [.tick]).Inv ∧
    decode ⟨0x01#8, txt "00", []⟩ = .ok (.encode (txt "00") []) ∧
    decode ⟨0x03#8, txt "00", hdr⟩ = .ok (.validate (txt "00") hdr) ∧ hasHeader defaultConfig hdr = true ∧
    hexParse defaultConfig.hexAcceptUpper (txt "00") = .ok [0x00#8] ∧
    hexParse defaultConfig.hexAcceptUpper [] = .ok [] :=
  ⟨busyWith_inv _ _ _ (by decide) (by decide), busyWith_inv _ _ _ (by decide) (by decide),
    busyWith_inv _ _ _ (by decide) (by decide), by decide, by decide, by decide, by decide, by decide⟩
theorem witness_TickProcessesOnePositionOfDecode :
    (busyWith defaultConfig ⟨0x02#8, hdr ++ txt "d8d8", []⟩ [.tick]).Inv ∧
    (busyWith defaultConfig ⟨0x02#8, hdr, []⟩ [.tick]).Inv ∧
    hasHeader defaultConfig (hdr ++ txt "d8d8") = true ∧
    hexParse defaultConfig.hexAcceptUpper (dataPortion (hdr ++ txt "d8d8")) = .ok [0xD8#8, 0xD8#8] ∧
    hexParse defaultConfig.hexAcceptUpper (dataPortion hdr) = .ok [] :=
  ⟨busyWith_inv _ _ _ (by decide) (by decide), busyWith_inv _ _ _ (by decide) (by decide), by decide, by decide,
    by decide⟩
theorem witness_StepKeepsTheConstantsAndDeliversAtMostOne :
    (∃ t, step (busyWith defaultConfig ⟨0x01#8, [], []⟩ [.tick]) = .next t) ∧
    (∃ t, step (busyWith defaultConfig ⟨0x01#8, [], []⟩ [.deliver]) = .next t) := ⟨⟨_, rfl⟩, ⟨_, rfl⟩⟩
theorem witness_BrokenHostDutiesAreRefused :
    (busyWith smallest ⟨0x01#8, [], []⟩ [.issue ⟨0x01#8, [], []⟩]).phase = .busy ⟨0x01#8, [], []⟩ ∧
    Request.wf smallest ⟨0x01#8, List.replicate 33 0x30#8, []⟩ = false ∧
    (idleWith smallest [.issue ⟨0x01#8, hdr, hdr⟩]).phase = .idle := by decide
theorem witness_EveryStepKeepsTheInvariant :
    (busyWith defaultConfig ⟨0x02#8, hdr ++ txt "d8d8", []⟩ [.tick]).Inv ∧
    ∃ t, step (busyWith defaultConfig ⟨0x02#8, hdr ++ txt "d8d8", []⟩ [.tick]) = .next t :=
  ⟨busyWith_inv _ _ _ (by decide) (by decide), ⟨_, rfl⟩⟩
theorem witness_ResponseDependsOnRequestAndConstantsOnly :
    (busyWith defaultConfig ⟨0x01#8, txt "00", []⟩ [.deliver]).Inv ∧
    (busyWith defaultConfig ⟨0x01#8, txt "00", []⟩ [.deliver, .reset]).Inv :=
  ⟨busyWith_inv _ _ _ (by decide) (by decide), busyWith_inv _ _ _ (by decide) (by decide)⟩
theorem witness_EveryFiniteLatencyEndsInTheResponse :
    (busyWith defaultConfig ⟨0x01#8, txt "00", []⟩ (List.replicate 3 .tick ++ .deliver :: [.reset])).Inv :=
  busyWith_inv _ _ _ (by decide) (by decide)
theorem witness_DutifulHostReceivesWhatItIsOwed :
    (idleWith smallest [.tick, .issue ⟨0x01#8, hdr, []⟩, .tick, .reset, .issue ⟨0x07#8, [], hdr⟩]).Inv ∧
    keepsDuties smallest none [.tick, .issue ⟨0x01#8, hdr, []⟩, .tick, .reset, .issue ⟨0x07#8, [], hdr⟩] = true :=
  ⟨⟨by decide, rfl⟩, by decide⟩
theorem witness_InstancesAreIndependent :
    ∃ S', System.stepAt 0 [busyWith defaultConfig ⟨0x01#8, [], []⟩ [], idleWith defaultConfig []] = .next S' :=
  ⟨_, rfl⟩
theorem witness_ResetPutsEveryInstanceInIdle :
    ([idleWith smallest [], busyWith smallest ⟨0x01#8, [], []⟩ []] : System)[1]? =
      some (busyWith smallest ⟨0x01#8, [], []⟩ []) := rfl

end Sys2Proof.Tests
end

/-! The encoding family (30_encoding.md): the rules of the decoder, the hex text and the interface that its statements
need, then the statements themselves. -/

namespace Sys2Proof.Machine

/-! ### The command of a request (30_encoding.md R62 to R65) -/

theorem decode_of_encode_op {r : Request} (h : r.op.toNat = 1) : decode r = .ok (.encode r.a r.b) := by
  have hop : r.op = 0x01#8 := BitVec.eq_of_toNat_eq h
  simp [decode, hop]

theorem decode_of_decode_op {r : Request} (h : r.op.toNat = 2) : decode r = .ok (.decode r.a r.b) := by
  have hop : r.op = 0x02#8 := BitVec.eq_of_toNat_eq h
  simp [decode, hop]

theorem decode_of_validate_op {r : Request} (h : r.op.toNat = 3) : decode r = .ok (.validate r.a r.b) := by
  have hop : r.op = 0x03#8 := BitVec.eq_of_toNat_eq h
  simp [decode, hop]

theorem decode_of_reserved_op {r : Request} (h1 : r.op.toNat ≠ 1) (h2 : r.op.toNat ≠ 2) (h3 : r.op.toNat ≠ 3) :
    decode r = .error .reservedCode := by
  rw [decode, if_neg (fun h => h1 (congrArg BitVec.toNat h)), if_neg (fun h => h2 (congrArg BitVec.toNat h)),
    if_neg (fun h => h3 (congrArg BitVec.toNat h))]

/-- The response of an ENCODE request. -/
@[simp] theorem respond_encode (c : Config) (a b : Text) : respond c ⟨0x01#8, a, b⟩ = respondEncode c a := rfl

/-- The response of a DECODE request. -/
@[simp] theorem respond_decode (c : Config) (a b : Text) : respond c ⟨0x02#8, a, b⟩ = respondDecode c a := rfl

/-- The response of a request with a reserved OP, whatever its operands hold. -/
theorem respond_of_reserved_op (c : Config) {r : Request} (h1 : r.op.toNat ≠ 1) (h2 : r.op.toNat ≠ 2)
    (h3 : r.op.toNat ≠ 3) : respond c r = raiseError .illegalCommand := by
  simp [respond, decode_of_reserved_op h1 h2 h3]

/-! ### What a legal header is, and when a request is over capacity (10_state.md R25, 20_memory.md R53) -/

theorem headerText_length_of_wf {c : Config} (h : c.wf = true) : c.headerText.length = 32 := by
  simp only [Config.wf, Bool.and_eq_true, beq_iff_eq] at h
  obtain ⟨⟨hlength, -⟩, -⟩ := h
  exact hlength

theorem isLowerHexCode_of_mem_headerText {c : Config} (h : c.wf = true) {ch : Byte} (hm : ch ∈ c.headerText) :
    isLowerHexCode ch = true := by
  simp only [Config.wf, Bool.and_eq_true, List.all_eq_true] at h
  obtain ⟨⟨-, hall⟩, -⟩ := h
  exact hall ch hm

theorem wf_eq_false_of_overCapacity {c : Config} {r : Request}
    (h : c.maxTextChars < r.a.length ∨ c.maxTextChars < r.b.length) : r.wf c = false := by
  rcases h with h | h <;> simp [Request.wf, Config.fits, h]

/-- The host's issue of a request over capacity to an Idle block. -/
theorem hostIssue_of_not_wf {s : State} {r : Request} (hp : s.phase = .idle) (h : r.wf s.cfg = false) :
    hostIssue r s = .refused .overCapacity := by
  simp [hostIssue, hp, h]

/-- A Busy block with no finished response answers with its request's response. -/
theorem blockDeliver_of_busy {s : State} {r : Request} (hp : s.phase = .busy r) (hn : s.pending = none) :
    blockDeliver s = answer r.a r.b (respond s.cfg r) s := by
  simp [blockDeliver, hp, hn, serve_eq_answer]

/-! ### Hex characters (30_encoding.md R67, R68) -/

theorem hexValue_decimal (u : Bool) {ch : Byte} (h : 0x30 ≤ ch.toNat ∧ ch.toNat ≤ 0x39) :
    (hexValue u ch).map BitVec.toNat = some (ch.toNat - 0x30) := by
  rw [hexValue, if_pos h, Option.map_some, Option.some_inj]
  bv_omega

theorem hexValue_lower (u : Bool) {ch : Byte} (h : 0x61 ≤ ch.toNat ∧ ch.toNat ≤ 0x66) :
    (hexValue u ch).map BitVec.toNat = some (ch.toNat - 0x61 + 10) := by
  rw [hexValue, if_neg (by omega), if_pos h, Option.map_some, Option.some_inj]
  bv_omega

theorem hexValue_upper (u : Bool) {ch : Byte} (h : 0x41 ≤ ch.toNat ∧ ch.toNat ≤ 0x46) :
    (hexValue u ch).map BitVec.toNat = if u then some (ch.toNat - 0x41 + 10) else none := by
  rw [hexValue, if_neg (by omega), if_neg (by omega), if_pos h]
  cases u with
  | false => rfl
  | true =>
    simp only [if_true, Option.map_some, Option.some_inj]
    bv_omega

theorem hexValue_none (u : Bool) {ch : Byte}
    (h : ch.toNat < 0x30 ∨ (0x39 < ch.toNat ∧ ch.toNat < 0x41) ∨ (0x46 < ch.toNat ∧ ch.toNat < 0x61) ∨
      0x66 < ch.toNat) : hexValue u ch = none := by
  rw [hexValue, if_neg (by omega), if_neg (by omega), if_neg (by omega)]

theorem hexDigit_decimal {v : Nibble} (h : v.toNat ≤ 9) : (hexDigit v).toNat = 0x30 + v.toNat := by
  rw [hexDigit, if_pos h]
  bv_omega

theorem hexDigit_letter {v : Nibble} (h : 10 ≤ v.toNat) : (hexDigit v).toNat = 0x61 + (v.toNat - 10) := by
  rw [hexDigit, if_neg (by omega)]
  bv_omega

/-- A lowercase hex code is the digit of its own value. -/
theorem exists_hexDigit_of_isLowerHexCode {ch : Byte} (h : isLowerHexCode ch = true) : ∃ v, ch = hexDigit v := by
  simp only [isLowerHexCode, Bool.or_eq_true, Bool.and_eq_true, decide_eq_true_eq] at h
  rcases h with h | h
  · obtain ⟨v, -, hv⟩ := Option.map_eq_some_iff.mp (hexValue_decimal false h)
    exact ⟨v, BitVec.eq_of_toNat_eq (by rw [hexDigit_decimal (by omega)]; omega)⟩
  · obtain ⟨v, -, hv⟩ := Option.map_eq_some_iff.mp (hexValue_lower false h)
    exact ⟨v, BitVec.eq_of_toNat_eq (by rw [hexDigit_letter (by omega)]; omega)⟩

/-! ### Hex text (40_datapath_units.md R109, R110) -/

theorem exists_hexDigit_of_mem_hexFormat {D : List Byte} {ch : Byte} (h : ch ∈ hexFormat D) :
    ∃ v, ch = hexDigit v := by
  induction D with
  | nil => simp [hexFormat] at h
  | cons b D ih =>
    simp only [hexFormat, List.mem_cons] at h
    rcases h with h | h | h
    · exact ⟨_, h⟩
    · exact ⟨_, h⟩
    · exact ih h

theorem hexFormat_take (D : List Byte) (k : Nat) : (hexFormat D).take (2 * k) = hexFormat (D.take k) := by
  induction D generalizing k with
  | nil => simp [hexFormat]
  | cons b D ih => cases k <;> simp [hexFormat, Nat.mul_add, ih]

theorem hexFormat_drop (D : List Byte) (k : Nat) : (hexFormat D).drop (2 * k) = hexFormat (D.drop k) := by
  induction D generalizing k with
  | nil => simp [hexFormat]
  | cons b D ih => cases k <;> simp [hexFormat, Nat.mul_add, ih]

/-- The two characters of one byte stand at twice its index. -/
theorem hexFormat_slice {D : List Byte} {k : Nat} {e : Byte} (h : D[k]? = some e) :
    ((hexFormat D).drop (2 * k)).take 2 = hexFormat [e] := by
  have hone : (D.drop k).take 1 = [e] := by simp [List.take_one, h]
  calc ((hexFormat D).drop (2 * k)).take 2
      = (hexFormat (D.drop k)).take (2 * 1) := by rw [hexFormat_drop]
    _ = hexFormat [e] := by rw [hexFormat_take, hone]

/-- Two characters parse to one byte: both have a value and the rest of the text parses. -/
theorem hexParse_cons_cons_ok {u : Bool} {c d : Byte} {t : Text} {D : List Byte}
    (h : hexParse u (c :: d :: t) = .ok D) :
    ∃ hi lo E, hexValue u c = some hi ∧ hexValue u d = some lo ∧ hexParse u t = .ok E ∧ D = join hi lo :: E := by
  simp only [hexParse] at h
  split at h
  · next hi lo E hc hd ht => exact ⟨hi, lo, E, hc, hd, ht, (Except.ok.inj h).symm⟩
  · simp at h

/-- A text that parses has two characters a byte. -/
theorem hexParse_ok_length {u : Bool} {t : Text} {D : List Byte} (h : hexParse u t = .ok D) :
    t.length = 2 * D.length := by
  induction t using List.twoStepInduction generalizing D with
  | nil => cases h; rfl
  | singleton c => cases h
  | cons_cons c d t ih _ =>
    obtain ⟨hi, lo, E, -, -, ht, rfl⟩ := hexParse_cons_cons_ok h
    simp [ih ht]
    omega

/-- Every character of a text that parses has a value. -/
theorem hexParse_ok_hexValue {u : Bool} {t : Text} {D : List Byte} (h : hexParse u t = .ok D) :
    ∀ ch ∈ t, hexValue u ch ≠ none := by
  induction t using List.twoStepInduction generalizing D with
  | nil => simp
  | singleton c => cases h
  | cons_cons c d t ih _ =>
    obtain ⟨hi, lo, E, hc, hd, ht, -⟩ := hexParse_cons_cons_ok h
    simpa [hc, hd] using ih ht

/-- A character with no value makes the whole text MalformedHex. -/
theorem hexParse_of_hexValue_none {u : Bool} {ch : Byte} {t : Text} (hn : hexValue u ch = none) (hm : ch ∈ t) :
    hexParse u t = .error .malformedHex := by
  rcases hexParse_cases u t with h | ⟨D, h⟩
  · exact h
  · exact absurd hn (hexParse_ok_hexValue h ch hm)

/-! ### The texts that responses carry (30_encoding.md R61) -/

/-- ENCODE of a payload that parses answers with the header and the encoded bytes. -/
theorem respondEncode_of_ok {c : Config} {a : Text} {P : List Byte} (h : hexParse c.hexAcceptUpper a = .ok P) :
    respondEncode c a = okText (c.headerText ++ hexFormat (encodeData P)) := by
  simp [respondEncode, h]

/-- ENCODE's OUT is empty, or the header and hex text. -/
theorem respondEncode_out (c : Config) (a : Text) :
    (respondEncode c a).out = [] ∨ ∃ D, (respondEncode c a).out = c.headerText ++ hexFormat D := by
  unfold respondEncode
  split
  · exact .inl rfl
  · exact .inr ⟨_, rfl⟩

/-- DECODE's OUT is hex text, empty in an error. -/
theorem respondDecode_out (c : Config) (a : Text) : ∃ D, (respondDecode c a).out = hexFormat D := by
  unfold respondDecode
  split
  · split
    · exact ⟨[], rfl⟩
    · split
      · exact ⟨[], rfl⟩
      · exact ⟨_, rfl⟩
  · exact ⟨[], rfl⟩

@[simp] theorem respondValidate_out (c : Config) (a b : Text) : (respondValidate c a b).out = [] := by
  unfold respondValidate
  split <;> rfl

/-- The OUT of every response is hex text, with the header before it or not. -/
theorem respond_out (c : Config) (r : Request) :
    ∃ H D, (respond c r).out = H ++ hexFormat D ∧ (H = [] ∨ H = c.headerText) := by
  unfold respond
  split
  · exact ⟨[], [], rfl, .inl rfl⟩
  · next a _ _ =>
    rcases respondEncode_out c a with h | ⟨D, h⟩
    · exact ⟨[], [], h, .inl rfl⟩
    · exact ⟨_, D, h, .inr rfl⟩
  · next a _ _ =>
    obtain ⟨D, h⟩ := respondDecode_out c a
    exact ⟨[], D, h, .inl rfl⟩
  · exact ⟨[], [], respondValidate_out .., .inl rfl⟩

/-! ### The statements of 30_encoding.md -/

/-- Settles O8, range by range of the character codes; the last part because a text that parses has a value at every
character. -/
theorem hexValueOfEveryCharacter : Obligations.HexValueOfEveryCharacter := by
  intro u ch
  exact ⟨hexValue_decimal u, hexValue_lower u, hexValue_upper u, hexValue_none u,
    fun hn _ hm => hexParse_of_hexValue_none hn hm⟩

/-- Settles O9: an OUT is the header and hex text, and both are made of `hexDigit`. -/
theorem outputsAreLowercaseHexDigits : Obligations.OutputsAreLowercaseHexDigits := by
  refine ⟨fun v => ⟨hexDigit_decimal, hexDigit_letter⟩, fun c r hc ch hm => ?_⟩
  obtain ⟨H, D, hout, hH⟩ := respond_out c r
  rw [hout, List.mem_append] at hm
  rcases hm with hm | hm
  · rcases hH with rfl | rfl
    · simp at hm
    · exact exists_hexDigit_of_isLowerHexCode (isLowerHexCode_of_mem_headerText hc hm)
  · exact exists_hexDigit_of_mem_hexFormat hm

/-- Settles O17: OUT is the header and the hex text of the encoded bytes, and bytes `2i` and `2i+1` of these are the
transforms of the nibbles at position `i`. -/
theorem encodedStringLayout : Obligations.EncodedStringLayout := by
  intro c a b P hc hP
  have hlen := headerText_length_of_wf hc
  have hout : (respond c ⟨0x01#8, a, b⟩).out = c.headerText ++ hexFormat (encodeFrom 0 P) := by
    rw [respond_encode, respondEncode_of_ok hP, encodeData_eq]
    rfl
  rw [hout]
  refine ⟨?_, ?_, List.take_left' hlen, fun i hi => ?_⟩
  · rw [List.length_append, hexFormat_length, encodeFrom_length, hlen]
    omega
  · rw [hexParse_ok_length hP]
    omega
  · obtain ⟨hhigh, hlow⟩ := encodeFrom_getElem? P 0 i hi
    rw [Nat.zero_add] at hhigh hlow
    have hdrop : ∀ k, (c.headerText ++ hexFormat (encodeFrom 0 P)).drop (32 + k) =
        (hexFormat (encodeFrom 0 P)).drop k := fun k => by rw [← hlen, List.drop_length_add_append]
    constructor
    · rw [hdrop, show 4 * i = 2 * (2 * i) by omega, hexFormat_slice hhigh]
    · rw [Nat.add_assoc, hdrop, show 4 * i + 2 = 2 * (2 * i + 1) by omega, hexFormat_slice hlow]

/-- Settles O38: the deliver move answers with the request's response, which is ILLEGAL_COMMAND for a reserved OP. -/
theorem reservedOpAnswersIllegalCommand : Obligations.ReservedOpAnswersIllegalCommand := by
  intro s r es hp hn hw h1 h2 h3 hin
  obtain ⟨ha, hb⟩ : s.cfg.fits r.a = true ∧ s.cfg.fits r.b = true := by simpa [Request.wf] using hw
  have hstep : step s = answer r.a r.b (raiseError .illegalCommand) { s with inputs := es } := by
    rw [step_cons hin, ← respond_of_reserved_op s.cfg h1 h2 h3]
    exact blockDeliver_of_busy hp hn
  rw [hstep]
  exact answer_answers r.a r.b _ _ ha hb

/-- Settles O33, by the cases of OP's value: 1, 2, 3 and any other. -/
theorem wholeOpByteSelectsCommand : Obligations.WholeOpByteSelectsCommand := by
  intro r i
  by_cases h1 : r.op.toNat = 1
  · simp [decode_of_encode_op h1, h1, eq_comm]
  by_cases h2 : r.op.toNat = 2
  · simp [decode_of_decode_op h2, h2, eq_comm]
  by_cases h3 : r.op.toNat = 3
  · simp [decode_of_validate_op h3, h3, eq_comm]
  · simp [decode_of_reserved_op h1 h2 h3, h1, h2, h3]

/-- Settles O37: `AsmLine.request` gives each mnemonic form the fields of its `.req` form. -/
theorem textualFormsAreTheirRequests : Obligations.TextualFormsAreTheirRequests :=
  fun _ _ _ _ _ _ => ⟨rfl, rfl, rfl, rfl⟩

/-- Settles O40: the responses do not name the ignored operands, and the host's issue checks the capacity. -/
theorem ignoredOperandsChangeNothing : Obligations.IgnoredOperandsChangeNothing := by
  refine ⟨fun c a b b' => ?_, fun c op a a' b b' h => ?_, fun s r es hp hin hlen => ?_⟩
  · simp only [respond_encode, respond_decode, and_self]
  · have hreserved : ∀ x y : Text, respond c ⟨op, x, y⟩ = raiseError .illegalCommand := fun x y =>
      respond_of_reserved_op c (show op.toNat ≠ 1 by omega) (show op.toNat ≠ 2 by omega)
        (show op.toNat ≠ 3 by omega)
    rw [hreserved, hreserved]
  · rw [step_cons hin]
    exact hostIssue_of_not_wf hp (wf_eq_false_of_overCapacity hlen)

end Sys2Proof.Machine

/-! The units family (40_datapath_units.md): the units as numbers, hex text and the comparators position by position, then
the statements themselves. -/

namespace Sys2Proof.Machine

/-! ### The units as numbers (40_datapath_units.md R100 to R105) -/

theorem split_fst_toNat (b : Byte) : (split b).1.toNat = b.toNat >>> 4 := by
  have hlt : b.toNat >>> 4 < 2 ^ 4 := by rw [Nat.shiftRight_eq_div_pow]; omega
  rw [split, BitVec.toNat_setWidth, BitVec.toNat_ushiftRight, Nat.mod_eq_of_lt hlt]

theorem split_snd_toNat (b : Byte) : (split b).2.toNat = b.toNat &&& 0x0F := by
  have hle : b.toNat &&& 0x0F ≤ 0x0F := Nat.and_le_right
  rw [split, BitVec.toNat_setWidth, BitVec.toNat_and]
  exact Nat.mod_eq_of_lt (Nat.lt_succ_of_le hle)

theorem join_toNat (hi lo : Nibble) : (join hi lo).toNat = (hi.toNat <<< 4) ||| lo.toNat := by
  have hhi : hi.toNat <<< 4 < 2 ^ 8 := by rw [Nat.shiftLeft_eq]; omega
  rw [join, BitVec.toNat_or, BitVec.toNat_shiftLeft, BitVec.toNat_setWidth_of_le (by decide),
    BitVec.toNat_setWidth_of_le (by decide), Nat.mod_eq_of_lt hhi]

theorem posAt_toNat (i : Nat) : (posAt i).toNat = i % 256 := BitVec.toNat_ofNat i 8

/-- R102 at the value of the position counter. -/
theorem xform_toNat (n : Nibble) (pos : Byte) :
    (xform n pos).toNat = ((n.toNat ^^^ 0xD8) + pos.toNat) % 256 := by
  rw [xform, BitVec.toNat_add, BitVec.toNat_xor, BitVec.toNat_setWidth_of_le (by decide)]
  rfl

/-- R105 at the value of the position counter. -/
theorem ixform_toNat (e pos : Byte) :
    (ixform e pos).toNat = (((e.toNat + (256 - pos.toNat)) % 256) ^^^ 0xD8) &&& 0x0F := by
  have hsub : (e - pos).toNat = (e.toNat + (256 - pos.toNat)) % 256 := by bv_omega
  have hle : ((e.toNat + (256 - pos.toNat)) % 256 ^^^ 0xD8) &&& 0x0F ≤ 0x0F := Nat.and_le_right
  rw [ixform, BitVec.toNat_setWidth, BitVec.toNat_and, BitVec.toNat_xor, hsub]
  exact Nat.mod_eq_of_lt (Nat.lt_succ_of_le hle)

/-! ### Hex text, character by character (40_datapath_units.md R109, R110) -/

theorem isLowerHexCode_hexDigit (v : Nibble) : isLowerHexCode (hexDigit v) = true := by
  simp only [isLowerHexCode, Bool.or_eq_true, Bool.and_eq_true, decide_eq_true_eq]
  by_cases h : v.toNat ≤ 9
  · rw [hexDigit_decimal h]
    omega
  · rw [hexDigit_letter (by omega)]
    omega

/-- The digits of byte `k`, read off the two-character slice at `2k`. -/
theorem hexFormat_getElem? {D : List Byte} {k : Nat} (h : k < D.length) :
    (hexFormat D)[2 * k]? = some (hexDigit (split D[k]).1) ∧
      (hexFormat D)[2 * k + 1]? = some (hexDigit (split D[k]).2) := by
  have hslice := hexFormat_slice (List.getElem?_eq_getElem h)
  have hchar : ∀ j < 2, (hexFormat D)[2 * k + j]? = (hexFormat [D[k]])[j]? := fun j hj => by
    rw [← hslice, List.getElem?_take_of_lt hj, List.getElem?_drop]
  exact ⟨hchar 0 (by decide), hchar 1 (by decide)⟩

/-- The two tests of R110 are all that can fail. -/
theorem hexParse_ok_of_hexValue {u : Bool} {t : Text} (heven : t.length % 2 = 0)
    (hv : ∀ ch ∈ t, hexValue u ch ≠ none) : ∃ D, hexParse u t = .ok D := by
  induction t using List.twoStepInduction with
  | nil => exact ⟨[], rfl⟩
  | singleton c => simp at heven
  | cons_cons c d t ih _ =>
    obtain ⟨hi, hc⟩ := Option.ne_none_iff_exists'.mp (hv c (by simp))
    obtain ⟨lo, hd⟩ := Option.ne_none_iff_exists'.mp (hv d (by simp))
    obtain ⟨D, ht⟩ := ih (by simpa [Nat.add_assoc] using heven) fun ch hm => hv ch (by simp [hm])
    exact ⟨join hi lo :: D, by simp [hexParse, hc, hd, ht]⟩

theorem hexParse_eq_malformedHex_iff (u : Bool) (t : Text) :
    hexParse u t = .error .malformedHex ↔ t.length % 2 = 1 ∨ ∃ ch ∈ t, hexValue u ch = none := by
  constructor
  · intro h
    by_contra hgood
    push Not at hgood
    obtain ⟨hodd, hv⟩ := hgood
    obtain ⟨D, hD⟩ := hexParse_ok_of_hexValue (by omega) hv
    simp [h] at hD
  · rintro (hodd | ⟨ch, hm, hn⟩)
    · rcases hexParse_cases u t with h | ⟨D, h⟩
      · exact h
      · have := hexParse_ok_length h
        omega
    · exact hexParse_of_hexValue_none hn hm

/-- Byte `k` of a parse is joined from the values of characters `2k` and `2k+1`. -/
theorem hexParse_ok_getElem {u : Bool} {t : Text} {D : List Byte} (h : hexParse u t = .ok D) {k : Nat}
    (hk : k < D.length) :
    ∃ c0 c1 v0 v1, t[2 * k]? = some c0 ∧ t[2 * k + 1]? = some c1 ∧ hexValue u c0 = some v0 ∧
      hexValue u c1 = some v1 ∧ D[k] = join v0 v1 := by
  induction t using List.twoStepInduction generalizing D k with
  | nil => cases h; simp at hk
  | singleton c => cases h
  | cons_cons c d t ih _ =>
    obtain ⟨hi, lo, E, hc, hd, ht, rfl⟩ := hexParse_cons_cons_ok h
    cases k with
    | zero => exact ⟨c, d, hi, lo, rfl, rfl, hc, hd, rfl⟩
    | succ k => simpa [Nat.mul_add] using ih ht (Nat.lt_of_succ_lt_succ hk)

/-! ### Comparison position by position (40_datapath_units.md R112, R114) -/

theorem eq_iff_length_and_getElem? (X Y : List Byte) :
    X = Y ↔ X.length = Y.length ∧ ∀ k, k < X.length → X[k]? = Y[k]? := by
  constructor
  · rintro rfl
    exact ⟨rfl, fun _ _ => rfl⟩
  · rintro ⟨hlen, hpos⟩
    exact List.ext_getElem?' (by simpa [← hlen] using hpos)

/-! ### The statements of 40_datapath_units.md -/

/-- Settles O1: each half of `split` as a number; a 4-bit value is below 16. -/
theorem splitGivesHighAndLowNibble : Obligations.SplitGivesHighAndLowNibble := fun b =>
  ⟨split_fst_toNat b, split_snd_toNat b, Nat.le_of_lt_succ (split b).1.isLt, Nat.le_of_lt_succ (split b).2.isLt⟩

/-- Settles O3: the position counter is `i mod 256`, and the outer sum is modulo 256 as well. -/
theorem xformIsXorThenAddModulo256 : Obligations.XformIsXorThenAddModulo256 := by
  intro n i
  rw [xform_toNat, posAt_toNat, Nat.add_mod_mod]

/-- Settles O5: the position counter is `i mod 256`, so the difference is the one from the counter. -/
theorem ixformIsSubtractXorMask : Obligations.IxformIsSubtractXorMask := by
  intro e i
  rw [ixform_toNat, posAt_toNat]

/-- Settles O10: every character is a `hexDigit`, and byte `k` has the slice at `2k`. -/
theorem hexFormatWritesHighDigitFirst : Obligations.HexFormatWritesHighDigitFirst := by
  intro D
  refine ⟨hexFormat_length D, fun ch hm => ?_, fun k hk => hexFormat_getElem? hk⟩
  obtain ⟨v, rfl⟩ := exists_hexDigit_of_mem_hexFormat hm
  exact isLowerHexCode_hexDigit v

/-- Settles O11: the failing texts, the one error, and the bytes of a text that parses. -/
theorem hexParseAcceptsExactlyHexText : Obligations.HexParseAcceptsExactlyHexText := by
  intro u t
  refine ⟨hexParse_eq_malformedHex_iff u t, hexParse_error u t, fun D hD =>
    ⟨(hexParse_ok_length hD).symm, fun k hk => ?_⟩⟩
  obtain ⟨c0, c1, v0, v1, h0, h1, hv0, hv1, hbyte⟩ := hexParse_ok_getElem hD hk
  exact ⟨c0, c1, v0, v1, h0, h1, hv0, hv1, by rw [hbyte, join_toNat]⟩

/-- Settles O13: the first 32 characters of the text and the header have the same length, so they are equal exactly when
they agree at each position; the text is these 32 and the rest. -/
theorem headerComparedCharacterByCharacter : Obligations.HeaderComparedCharacterByCharacter := by
  intro c t hc
  have hlen := headerText_length_of_wf hc
  rw [hasHeader_iff]
  constructor
  · refine and_congr_right fun ht => ?_
    have htake : (t.take 32).length = 32 := List.length_take_of_le ht
    rw [eq_iff_length_and_getElem?, htake, hlen, and_iff_right rfl]
    exact forall₂_congr fun k hk => by rw [List.getElem?_take_of_lt hk]
  · rintro ⟨-, htake⟩
    rw [← htake]
    exact (List.take_append_drop 32 t).symm

/-- Settles O14: the comparator is equality of the sequences, which is equality position by position. -/
theorem eqBytesComparesLengthThenPositions : Obligations.EqBytesComparesLengthThenPositions :=
  fun X Y => (eqBytes_iff_eq X Y).trans (eq_iff_length_and_getElem? X Y)

end Sys2Proof.Machine

/-! The ENCODE family (41_encode.md): the encoded bytes of a position and ENCODE's answer on both of its paths, then
the statements themselves. -/

namespace Sys2Proof.Machine

/-- Encoded bytes `2i` and `2i+1` are the transforms of the nibbles at position `i`. -/
theorem encodeData_getElem? {P : List Byte} {i : Nat} (h : i < P.length) :
    (encodeData P)[2 * i]? = some (xform (split P[i]).1 (posAt i)) ∧
      (encodeData P)[2 * i + 1]? = some (xform (split P[i]).2 (posAt i)) := by
  simpa [encodeData_eq] using encodeFrom_getElem? P 0 i h

/-- ENCODE of an operand that does not parse. -/
theorem respondEncode_of_error {c : Config} {a : Text} {e : ErrorKind} (h : hexParse c.hexAcceptUpper a = .error e) :
    respondEncode c a = raiseError .malformedHex := by
  obtain rfl := hexParse_error _ _ _ h
  simp [respondEncode, h]

/-- Within capacity ENCODE completes with the response of its operand A. -/
theorem exec_encode_answers {s : State} {a b : Text} (ha : s.cfg.fits a = true) (hb : s.cfg.fits b = true) :
    Answers s (exec (.encode a b) s) (respondEncode s.cfg a) := by
  rw [exec_eq_answer]
  exact answer_answers a b _ s ha hb

/-! ### The statements of 41_encode.md -/

/-- Settles O15: the two bytes of a position are transforms of its nibbles, and the transform (R102) and the nibbles
(R100) are known as numbers. -/
theorem encodeDataAtEveryPosition : Obligations.EncodeDataAtEveryPosition := by
  intro P
  refine ⟨by rw [encodeData_eq, encodeFrom_length], fun i hi => ?_⟩
  obtain ⟨hhigh, hlow⟩ := encodeData_getElem? hi
  constructor
  · rw [hhigh, Option.map_some, xformIsXorThenAddModulo256 _ i, split_fst_toNat]
  · rw [hlow, Option.map_some, xformIsXorThenAddModulo256 _ i, split_snd_toNat]

/-- Settles O16: ENCODE answers with the response of operand A, which is known on either path of the parse. -/
theorem encodeAnswersEncodedStringOrMalformedHex : Obligations.EncodeAnswersEncodedStringOrMalformedHex := by
  intro s a b ha hb
  have hans := exec_encode_answers ha hb
  constructor
  · intro P hP
    rwa [respondEncode_of_ok hP] at hans
  · intro e he
    rwa [respondEncode_of_error he] at hans

/-- Settles O18: the operand parses or not, and the response's status says which. -/
theorem encodeFailsOnlyOnMalformedHex : Obligations.EncodeFailsOnlyOnMalformedHex := by
  intro c a b
  rw [respond_encode, ← hexParse_eq_malformedHex_iff]
  rcases hexParse_cases c.hexAcceptUpper a with he | ⟨P, hP⟩
  · rw [respondEncode_of_error he]
    exact ⟨.inr rfl, iff_of_true rfl he⟩
  · rw [respondEncode_of_ok hP]
    exact ⟨.inl rfl, iff_of_false (by simp [okText, statusOk]) (by simp [hP])⟩

/-- Settles O19: the empty text parses to the empty payload, whose encoded bytes add nothing to the header. -/
theorem emptyPayloadEncodesToHeader : Obligations.EmptyPayloadEncodesToHeader := by
  intro c b
  have hparse : hexParse c.hexAcceptUpper [] = .ok [] := rfl
  have hdata : hexFormat (encodeData []) = [] := rfl
  rw [respond_encode, respondEncode_of_ok hparse, hdata, List.append_nil]
  rfl

end Sys2Proof.Machine

/-! The DECODE family (42_decode.md): the nibbles of a joined byte, the payload byte of a pair and DECODE's four
outcomes, then the statements themselves. -/

namespace Sys2Proof.Machine

/-! ### The payload byte of a pair (40_datapath_units.md R101, 42_decode.md R140) -/

theorem join_toNat_eq_add (hi lo : Nibble) : (join hi lo).toNat = hi.toNat * 16 + lo.toNat := by
  rw [join_toNat, ← Nat.shiftLeft_add_eq_or_of_lt lo.isLt, Nat.shiftLeft_eq]

theorem join_toNat_shiftRight (hi lo : Nibble) : (join hi lo).toNat >>> 4 = hi.toNat := by
  rw [join_toNat_eq_add, Nat.shiftRight_eq_div_pow]
  omega

theorem join_toNat_and (hi lo : Nibble) : (join hi lo).toNat &&& 0x0F = lo.toNat := by
  rw [join_toNat_eq_add, Nat.and_two_pow_sub_one_eq_mod _ 4]
  omega

/-- Payload byte `i` is joined from the pair at `2i`, both bytes transformed back at the position of the pair. -/
theorem decodeFrom_getElem? (E : List Byte) (j i : Nat) (h : 2 * i + 1 < E.length) :
    (decodeFrom j E)[i]? = some (join (ixform E[2 * i] (posAt (j + i))) (ixform E[2 * i + 1] (posAt (j + i)))) := by
  induction E using List.twoStepInduction generalizing j i with
  | nil => simp at h
  | singleton e => simp at h
  | cons_cons e0 e1 E ih _ =>
    cases i with
    | zero => simp [decodeFrom]
    | succ i =>
      have hi : 2 * i + 1 < E.length := by simp only [List.length_cons] at h; omega
      simpa [decodeFrom, Nat.mul_add, Nat.add_assoc, Nat.add_comm 1] using ih (j + 1) i hi

/-! ### The outcomes of DECODE (42_decode.md R141 to R144, R149) -/

@[simp] theorem raiseError_status (e : ErrorKind) : (raiseError e).status = e.code := rfl

@[simp] theorem okText_status (out : Text) : (okText out).status = 0x00#8 := rfl

theorem respondDecode_of_no_header {c : Config} {a : Text} (h : hasHeader c a = false) :
    respondDecode c a = raiseError .headerMismatch := by
  simp [respondDecode, h]

theorem respondDecode_of_error {c : Config} {a : Text} {e : ErrorKind} (h : hasHeader c a = true)
    (he : hexParse c.hexAcceptUpper (dataPortion a) = .error e) :
    respondDecode c a = raiseError .malformedHex := by
  obtain rfl := hexParse_error _ _ _ he
  simp [respondDecode, h, he]

theorem respondDecode_of_odd {c : Config} {a : Text} {E : List Byte} (h : hasHeader c a = true)
    (hE : hexParse c.hexAcceptUpper (dataPortion a) = .ok E) (hodd : E.length % 2 = 1) :
    respondDecode c a = raiseError .lengthMismatch := by
  simp [respondDecode, h, hE, hodd]

theorem respondDecode_of_even {c : Config} {a : Text} {E : List Byte} (h : hasHeader c a = true)
    (hE : hexParse c.hexAcceptUpper (dataPortion a) = .ok E) (heven : E.length % 2 = 0) :
    respondDecode c a = okText (hexFormat (decodeData E)) := by
  simp [respondDecode, h, hE, heven]

/-- Every operand A fails at the header, at the parse or at the parity, or DECODE accepts it. -/
theorem decode_checks_cases (c : Config) (a : Text) :
    hasHeader c a = false ∨
      hasHeader c a = true ∧ (hexParse c.hexAcceptUpper (dataPortion a) = .error .malformedHex ∨
        ∃ E, hexParse c.hexAcceptUpper (dataPortion a) = .ok E ∧ (E.length % 2 = 1 ∨ E.length % 2 = 0)) := by
  cases h : hasHeader c a with
  | false => exact .inl rfl
  | true =>
    refine .inr ⟨rfl, (hexParse_cases c.hexAcceptUpper (dataPortion a)).imp_right ?_⟩
    rintro ⟨E, hE⟩
    exact ⟨E, hE, (Nat.mod_two_eq_zero_or_one _).symm⟩

/-- The error statuses of DECODE, each exactly when its check is the first to fail. -/
theorem respondDecode_status_iff (c : Config) (a : Text) :
    ((respondDecode c a).status = 0x02#8 ↔ hasHeader c a = false) ∧
    ((respondDecode c a).status = 0x01#8 ↔
      hasHeader c a = true ∧ hexParse c.hexAcceptUpper (dataPortion a) = .error .malformedHex) ∧
    ((respondDecode c a).status = 0x03#8 ↔
      hasHeader c a = true ∧ ∃ E, hexParse c.hexAcceptUpper (dataPortion a) = .ok E ∧ E.length % 2 = 1) := by
  rcases decode_checks_cases c a with h | ⟨h, he | ⟨E, hE, hodd | heven⟩⟩
  · simp [respondDecode_of_no_header h, h, ErrorKind.code]
  · simp [respondDecode_of_error h he, h, he, ErrorKind.code]
  · simp [respondDecode_of_odd h hE hodd, h, hE, hodd, ErrorKind.code]
  · simp [respondDecode_of_even h hE heven, h, hE, heven]

theorem hasHeader_eq_false_iff (c : Config) (t : Text) :
    hasHeader c t = false ↔ t.length < 32 ∨ t.take 32 ≠ c.headerText := by
  rw [← Bool.not_eq_true, hasHeader_iff, not_and_or, Nat.not_le]

/-- A text parses to an odd number of bytes exactly when all its characters have a value and their number is 2 mod 4. -/
theorem hexParse_ok_odd_iff (u : Bool) (t : Text) :
    (∃ E, hexParse u t = .ok E ∧ E.length % 2 = 1) ↔ (∀ ch ∈ t, hexValue u ch ≠ none) ∧ t.length % 4 = 2 := by
  constructor
  · rintro ⟨E, hE, hodd⟩
    have hlen := hexParse_ok_length hE
    exact ⟨hexParse_ok_hexValue hE, by omega⟩
  · rintro ⟨hv, hlen⟩
    obtain ⟨E, hE⟩ := hexParse_ok_of_hexValue (by omega) hv
    have hlenE := hexParse_ok_length hE
    exact ⟨E, hE, by omega⟩

/-- Within capacity DECODE completes with the response of its operand A. -/
theorem exec_decode_answers {s : State} {a b : Text} (ha : s.cfg.fits a = true) (hb : s.cfg.fits b = true) :
    Answers s (exec (.decode a b) s) (respondDecode s.cfg a) := by
  rw [exec_eq_answer]
  exact answer_answers a b _ s ha hb

/-! ### The statements of 42_decode.md -/

/-- Settles O22: byte `i` is joined from the inverse transforms of its pair, and these (R105) and the nibbles of a joined
byte (R101) are known as numbers. -/
theorem decodeDataAtEveryPosition : Obligations.DecodeDataAtEveryPosition := by
  intro E heven
  rw [decodeData_eq]
  refine ⟨by rw [decodeFrom_length]; omega, fun i hi => ⟨_, decodeFrom_getElem? E 0 i hi, ?_, ?_⟩⟩
  · rw [join_toNat_shiftRight, Nat.zero_add, ixformIsSubtractXorMask _ i]
  · rw [join_toNat_and, Nat.zero_add, ixformIsSubtractXorMask _ i]

/-- Settles O23: DECODE answers with the response of operand A, which is known for each outcome of its checks. -/
theorem decodeAnswersFirstFailedCheckOrPayload : Obligations.DecodeAnswersFirstFailedCheckOrPayload := by
  intro s a b ha hb
  have hans := exec_decode_answers ha hb
  refine ⟨fun h => ?_, fun e h he => ?_, fun E h hE hodd => ?_, fun E h hE heven => ?_⟩
  · rwa [respondDecode_of_no_header h] at hans
  · rwa [respondDecode_of_error h he] at hans
  · rwa [respondDecode_of_odd h hE hodd] at hans
  · rwa [respondDecode_of_even h hE heven] at hans

/-- Settles O24: each status says which check of R149 fails first, and each check is known on the characters. -/
theorem decodeErrorConditions : Obligations.DecodeErrorConditions := by
  intro c a b _
  obtain ⟨hheader, hhex, hlength⟩ := respondDecode_status_iff c a
  rw [respond_decode]
  exact ⟨hheader.trans (hasHeader_eq_false_iff c a),
    hhex.trans (and_congr_right fun _ => hexParse_eq_malformedHex_iff ..),
    hlength.trans (and_congr_right fun _ => hexParse_ok_odd_iff ..)⟩

end Sys2Proof.Machine

/-! The VALIDATE family (43_validate.md): the comparison as an equality of texts and the meaning of FLAG, then the
statements themselves. -/

namespace Sys2Proof.Machine

/-! ### The comparison and its FLAG (43_validate.md R160, R161) -/

/-- The response of a VALIDATE request. -/
@[simp] theorem respond_validate (c : Config) (a b : Text) : respond c ⟨0x03#8, a, b⟩ = respondValidate c a b := rfl

@[simp] theorem okFlag_status (flag : Bool) : (okFlag flag).status = 0x00#8 := rfl

@[simp] theorem okFlag_flag (flag : Bool) : (okFlag flag).flag = flag := rfl

theorem encodeData_length (P : List Byte) : (encodeData P).length = 2 * P.length := by
  rw [encodeData_eq, encodeFrom_length]

/-- The length test of R160 adds nothing to the comparison of the characters. -/
theorem matchesEncoding_iff (headerOk : Bool) (b x : Text) :
    matchesEncoding headerOk b x = true ↔ headerOk = true ∧ dataPortion b = x := by
  simp only [matchesEncoding, Bool.and_eq_true, beq_iff_eq, eqBytes_iff_eq, and_assoc]
  exact and_congr_right fun _ => and_iff_right_of_imp (congrArg List.length)

/-- Whatever VALIDATE finds goes into FLAG alone (43_validate.md R161). -/
theorem respondValidate_eq_okFlag (c : Config) (a b : Text) :
    respondValidate c a b = okFlag (respondValidate c a b).flag := by
  unfold respondValidate
  split <;> rfl

/-- FLAG is 1 exactly when operand A parses, operand B has the header, and the rest of B is the re-derived text. -/
theorem respondValidate_flag_iff (c : Config) (a b : Text) :
    (respondValidate c a b).flag = true ↔
      ∃ P, hexParse c.hexAcceptUpper a = .ok P ∧ hasHeader c b = true ∧
        dataPortion b = hexFormat (encodeData P) := by
  unfold respondValidate
  split
  · next e he => simp [he]
  · next P hP => simp [hP, matchesEncoding_iff]

/-- A data portion that is the re-derived text has four characters for each payload byte, two of operand A's. -/
theorem dataPortion_length_of_match {c : Config} {a b : Text} {P : List Byte}
    (hP : hexParse c.hexAcceptUpper a = .ok P) (hb : dataPortion b = hexFormat (encodeData P)) :
    b.length - 32 = 4 * (a.length / 2) := by
  have hlen : b.length - 32 = 2 * (2 * P.length) := by
    rw [← encodeData_length, ← hexFormat_length, ← hb, dataPortion, List.length_drop]
  have ha := hexParse_ok_length hP
  omega

/-- Within capacity VALIDATE completes with STATUS OK, an empty OUT and the FLAG of its two operands. -/
theorem exec_validate_answers {s : State} {a b : Text} (ha : s.cfg.fits a = true) (hb : s.cfg.fits b = true) :
    Answers s (exec (.validate a b) s) (okFlag (respondValidate s.cfg a b).flag) := by
  rw [exec_eq_answer, ← respondValidate_eq_okFlag]
  exact answer_answers a b _ s ha hb

/-! ### The statements of 43_validate.md -/

/-- Settles O28: VALIDATE answers with its FLAG, which is 1 exactly on the matching path. -/
theorem validateAnswersTheComparison : Obligations.ValidateAnswersTheComparison := by
  intro s a b ha hb
  have hans := exec_validate_answers ha hb
  constructor
  · intro P hP hheader hdata
    have hflag : (respondValidate s.cfg a b).flag = true :=
      (respondValidate_flag_iff s.cfg a b).mpr ⟨P, hP, hheader, hdata⟩
    rwa [hflag] at hans
  · intro hmismatch
    have hflag : (respondValidate s.cfg a b).flag = false := by
      rw [← Bool.not_eq_true, respondValidate_flag_iff]
      rintro ⟨P, hP, hheader, hdata⟩
      exact hmismatch P hP hheader hdata
    rwa [hflag] at hans

/-- Settles O29: STATUS and OUT are those of `okFlag`, and each listed failure contradicts what FLAG 1 says of the
operands. -/
theorem validateNeverReportsAnError : Obligations.ValidateNeverReportsAnError := by
  intro c a b
  rw [respond_validate]
  refine ⟨by rw [respondValidate_eq_okFlag, okFlag_status], respondValidate_out c a b, fun hfail => ?_⟩
  rw [← Bool.not_eq_true, respondValidate_flag_iff]
  rintro ⟨P, hP, hheader, hdata⟩
  rcases hfail with ⟨e, he⟩ | hnone | hlen | ⟨Q, hQ, hdiff⟩
  · cases hP.symm.trans he
  · cases hheader.symm.trans hnone
  · exact hlen (dataPortion_length_of_match hP hdata)
  · cases hP.symm.trans hQ
    exact hdiff hdata

end Sys2Proof.Machine

/-! The reset and hazards family (70_reset_and_hazards.md): reset of a system, place by place, then the statement itself. -/

namespace Sys2Proof.Machine

/-! ### Reset of a system (70_reset_and_hazards.md R190) -/

/-- Reset of a system resets the instance at each place and keeps the places. -/
@[simp] theorem System.takeReset_getElem? (S : System) (k : Nat) : S.takeReset[k]? = S[k]?.map State.takeReset :=
  List.getElem?_map

@[simp] theorem State.takeReset_held (s : State) : s.takeReset.held = none :=
  State.held_of_idle s.takeReset_phase

/-! ### The statement of 70_reset_and_hazards.md -/

/-- Settles O59: the instance that stands at a place after the reset is the reset of the one that stood there. -/
theorem resetPutsEveryInstanceInIdle : Obligations.ResetPutsEveryInstanceInIdle := by
  intro S k s hs
  have hat : S.takeReset[k]? = some s.takeReset := by rw [System.takeReset_getElem?, hs, Option.map_some]
  exact ⟨s.takeReset, hat, s.takeReset_phase, s.takeReset_held, s.takeReset_pending, s.takeReset_cfg,
    s.takeReset_delivered⟩

end Sys2Proof.Machine

/-! Laws that the spec derives for the units and for hex text (40_datapath_units.md): `split` and `join` and both
transforms undo each other, and so do formatting and parsing; then the statements themselves. -/

namespace Sys2Proof.Machine

/-! ### Nibbles and bytes (R101) -/

theorem join_split (b : Byte) : join (split b).1 (split b).2 = b := by
  apply BitVec.eq_of_toNat_eq
  rw [join_toNat_eq_add, split_fst_toNat, split_snd_toNat, Nat.shiftRight_eq_div_pow,
    Nat.and_two_pow_sub_one_eq_mod _ 4]
  omega

theorem split_join (hi lo : Nibble) : split (join hi lo) = (hi, lo) :=
  Prod.ext
    (BitVec.eq_of_toNat_eq (by rw [split_fst_toNat, join_toNat_shiftRight]))
    (BitVec.eq_of_toNat_eq (by rw [split_snd_toNat, join_toNat_and]))

/-! ### The transforms in closed form (R103, R105): high nibble 0xD, low nibble XOR 8 -/

theorem xform_eq_join (n : Nibble) (pos : Byte) : xform n pos = join 0xD#4 (n ^^^ 8#4) + pos := by
  have hxor : ∀ n : Nibble, n.setWidth 8 ^^^ xorKey = join 0xD#4 (n ^^^ 8#4) := by decide
  rw [xform, hxor]

theorem ixform_eq_split (e pos : Byte) : ixform e pos = (split (e - pos)).2 ^^^ 8#4 := by
  have hmask : ∀ x : Nibble, (x ^^^ 8#4) &&& 15#4 = (x &&& 15#4) ^^^ 8#4 := by decide
  simpa [ixform, split, xorKey, BitVec.setWidth_and, BitVec.setWidth_xor] using hmask ((e - pos).setWidth 4)

theorem isCanonical_iff_split (e pos : Byte) : isCanonical e pos = true ↔ (split (e - pos)).1 = 0xD#4 := by
  rw [isCanonical, beq_iff_eq, ← BitVec.toNat_inj, ← BitVec.toNat_inj, split_fst_toNat, BitVec.toNat_ushiftRight]
  rfl

theorem xor_eight_xor_eight (n : Nibble) : n ^^^ 8#4 ^^^ 8#4 = n := by
  rw [BitVec.xor_assoc, BitVec.xor_self, BitVec.xor_zero]

/-! ### The transforms undo each other (R106 to R108) -/

@[simp] theorem ixform_xform (n : Nibble) (pos : Byte) : ixform (xform n pos) pos = n := by
  rw [ixform_eq_split, xform_eq_join, BitVec.add_sub_cancel, split_join, xor_eight_xor_eight]

theorem xform_injective (pos : Byte) : Function.Injective (xform · pos) :=
  Function.LeftInverse.injective (g := (ixform · pos)) (ixform_xform · pos)

/-- On canonical bytes alone the forward transform undoes the inverse one. -/
theorem xform_ixform_iff (e pos : Byte) : xform (ixform e pos) pos = e ↔ isCanonical e pos = true := by
  rw [xform_eq_join, ixform_eq_split, xor_eight_xor_eight, ← BitVec.eq_sub_iff_add_eq, isCanonical_iff_split]
  constructor
  · intro h
    rw [← h, split_join]
  · intro h
    rw [← h, join_split]

theorem exists_xform_iff (e pos : Byte) : (∃ n, xform n pos = e) ↔ isCanonical e pos = true := by
  rw [← xform_ixform_iff]
  constructor
  · rintro ⟨n, rfl⟩
    rw [ixform_xform]
  · exact fun h => ⟨_, h⟩

/-- The bytes with the inverse transform `n` have any high nibble at all before the position is added. -/
theorem ixform_eq_iff (e pos : Byte) (n : Nibble) :
    (∃ hi, join hi (n ^^^ 8#4) + pos = e) ↔ ixform e pos = n := by
  constructor
  · rintro ⟨hi, rfl⟩
    rw [ixform_eq_split, BitVec.add_sub_cancel, split_join, xor_eight_xor_eight]
  · rintro rfl
    refine ⟨(split (e - pos)).1, ?_⟩
    rw [ixform_eq_split, xor_eight_xor_eight, join_split, BitVec.sub_add_cancel]

theorem join_add_injective (lo : Nibble) (pos : Byte) : Function.Injective (join · lo + pos) := by
  intro hi hi' h
  have hjoin : join hi lo = join hi' lo := (BitVec.add_left_inj pos).mp h
  simpa [split_join] using congrArg (fun b => (split b).1) hjoin

/-! ### Counting bytes (R108) -/

/-- The 256 bytes, each once. -/
def allBytes : List Byte := (List.range 256).map (BitVec.ofNat 8)

theorem mem_allBytes (e : Byte) : e ∈ allBytes :=
  List.mem_map.mpr ⟨e.toNat, List.mem_range.mpr e.isLt, BitVec.ofNat_toNat 8 e⟩

theorem allBytes_nodup : allBytes.Nodup := by
  refine List.Nodup.map_on (fun i hi j hj h => ?_) List.nodup_range
  simpa [Nat.mod_eq_of_lt (List.mem_range.mp hi), Nat.mod_eq_of_lt (List.mem_range.mp hj)] using
    congrArg BitVec.toNat h

/-- The bytes that an injective function of a nibble reaches are 16. -/
theorem length_filter_allBytes {p : Byte → Bool} {f : Nibble → Byte} (hf : Function.Injective f)
    (hp : ∀ e, (∃ n, f n = e) ↔ p e = true) : (allBytes.filter p).length = 16 := by
  have hnodup : ((List.finRange 16).map (fun n => f (BitVec.ofFin n))).Nodup :=
    (List.nodup_finRange 16).map (hf.comp fun _ _ h => BitVec.ofFin.inj h)
  have hperm : (allBytes.filter p).Perm ((List.finRange 16).map (fun n => f (BitVec.ofFin n))) := by
    rw [List.perm_ext_iff_of_nodup (allBytes_nodup.filter p) hnodup]
    intro e
    rw [List.mem_filter, and_iff_right (mem_allBytes e), ← hp, List.mem_map]
    exact ⟨fun ⟨n, h⟩ => ⟨n.toFin, List.mem_finRange _, h⟩, fun ⟨n, _, h⟩ => ⟨_, h⟩⟩
  rw [hperm.length_eq, List.length_map, List.length_finRange]

/-! ### The position counter and the difference from it, as numbers (R104, R105) -/

theorem posAt_mod (i : Nat) : posAt (i % 256) = posAt i :=
  BitVec.eq_of_toNat_eq (by rw [posAt_toNat, posAt_toNat, Nat.mod_mod])

theorem sub_posAt_toNat (e : Byte) (i : Nat) : (e - posAt i).toNat = (e.toNat + (256 - i % 256)) % 256 := by
  rw [BitVec.toNat_sub, posAt_toNat, Nat.add_comm]

/-! ### Hex text and letter case (30_encoding.md R68, 40_datapath_units.md R111) -/

theorem lowerChar_of_upper {ch : Byte} (h : 0x41 ≤ ch.toNat ∧ ch.toNat ≤ 0x5A) :
    (lowerChar ch).toNat = ch.toNat + 0x20 := by
  rw [lowerChar, if_pos h]
  bv_omega

theorem lowerChar_of_not_upper {ch : Byte} (h : ¬ (0x41 ≤ ch.toNat ∧ ch.toNat ≤ 0x5A)) : lowerChar ch = ch :=
  if_neg h

theorem hexValue_hexDigit (u : Bool) (v : Nibble) : hexValue u (hexDigit v) = some v := by
  by_cases h : v.toNat ≤ 9
  · obtain ⟨w, hw, heq⟩ := Option.map_eq_some_iff.mp
      (hexValue_decimal u (ch := hexDigit v) (by rw [hexDigit_decimal h]; omega))
    rw [hw, BitVec.eq_of_toNat_eq (x := w) (y := v) (by rw [heq, hexDigit_decimal h]; omega)]
  · have h' : 10 ≤ v.toNat := by omega
    obtain ⟨w, hw, heq⟩ := Option.map_eq_some_iff.mp
      (hexValue_lower u (ch := hexDigit v) (by rw [hexDigit_letter h']; omega))
    rw [hw, BitVec.eq_of_toNat_eq (x := w) (y := v) (by rw [heq, hexDigit_letter h']; omega)]

/-- A character with a value stands in one of the three ranges of R68, and the value is that of its range. -/
theorem hexValue_eq_some {u : Bool} {ch : Byte} {v : Nibble} (h : hexValue u ch = some v) :
    (0x30 ≤ ch.toNat ∧ ch.toNat ≤ 0x39 ∧ v.toNat = ch.toNat - 0x30) ∨
    (0x61 ≤ ch.toNat ∧ ch.toNat ≤ 0x66 ∧ v.toNat = ch.toNat - 0x61 + 10) ∨
    (u = true ∧ 0x41 ≤ ch.toNat ∧ ch.toNat ≤ 0x46 ∧ v.toNat = ch.toNat - 0x41 + 10) := by
  by_cases hdec : 0x30 ≤ ch.toNat ∧ ch.toNat ≤ 0x39
  · exact .inl ⟨hdec.1, hdec.2, by simpa [h] using hexValue_decimal u hdec⟩
  by_cases hlow : 0x61 ≤ ch.toNat ∧ ch.toNat ≤ 0x66
  · exact .inr (.inl ⟨hlow.1, hlow.2, by simpa [h] using hexValue_lower u hlow⟩)
  by_cases hup : 0x41 ≤ ch.toNat ∧ ch.toNat ≤ 0x46
  · have hval := hexValue_upper u hup
    cases u with
    | false => simp [h] at hval
    | true => exact .inr (.inr ⟨rfl, hup.1, hup.2, by simpa [h] using hval⟩)
  · rw [hexValue_none u (by omega)] at h
    cases h

/-- The digit of a character's value is the character itself, made lowercase. -/
theorem hexDigit_of_hexValue {u : Bool} {ch : Byte} {v : Nibble} (h : hexValue u ch = some v) :
    hexDigit v = lowerChar ch := by
  apply BitVec.eq_of_toNat_eq
  rcases hexValue_eq_some h with ⟨hlo, hhi, hv⟩ | ⟨hlo, hhi, hv⟩ | ⟨-, hlo, hhi, hv⟩
  · rw [hexDigit_decimal (by omega), lowerChar_of_not_upper (by omega)]
    omega
  · rw [hexDigit_letter (by omega), lowerChar_of_not_upper (by omega)]
    omega
  · rw [hexDigit_letter (by omega), lowerChar_of_upper (by omega)]
    omega

theorem isUpperHexCode_iff (ch : Byte) : isUpperHexCode ch = true ↔ 0x41 ≤ ch.toNat ∧ ch.toNat ≤ 0x46 := by
  simp [isUpperHexCode]

/-- Of the characters with a value, `lowerChar` leaves those that are no uppercase digit. -/
theorem lowerChar_eq_self_iff {u : Bool} {ch : Byte} (h : hexValue u ch ≠ none) :
    lowerChar ch = ch ↔ isUpperHexCode ch = false := by
  obtain ⟨v, hv⟩ := Option.ne_none_iff_exists'.mp h
  rw [← Bool.not_eq_true, isUpperHexCode_iff]
  by_cases hup : 0x41 ≤ ch.toNat ∧ ch.toNat ≤ 0x46
  · have hne : lowerChar ch ≠ ch := fun heq => by
      have := lowerChar_of_upper (ch := ch) (by omega)
      rw [heq] at this
      omega
    exact iff_of_false hne (not_not_intro hup)
  · have hrange := hexValue_eq_some hv
    exact iff_of_true (lowerChar_of_not_upper (by omega)) hup

theorem hexAcceptUpper_of_isUpperHexCode {u : Bool} {ch : Byte} (h : hexValue u ch ≠ none)
    (hup : isUpperHexCode ch = true) : u = true := by
  obtain ⟨v, hv⟩ := Option.ne_none_iff_exists'.mp h
  have hrange := (isUpperHexCode_iff ch).mp hup
  rcases hexValue_eq_some hv with _ | _ | ⟨hu, -⟩
  · omega
  · omega
  · exact hu

@[simp] theorem hexParse_hexFormat (u : Bool) (D : List Byte) : hexParse u (hexFormat D) = .ok D := by
  induction D with
  | nil => rfl
  | cons b D ih => simp [hexFormat, hexParse, hexValue_hexDigit, ih, join_split]

theorem hexFormat_injective : Function.Injective hexFormat := fun D E h => by
  simpa using congrArg (hexParse true) h

theorem hexFormat_of_hexParse {u : Bool} {t : Text} {D : List Byte} (h : hexParse u t = .ok D) :
    hexFormat D = t.map lowerChar := by
  induction t using List.twoStepInduction generalizing D with
  | nil => cases h; rfl
  | singleton c => cases h
  | cons_cons c d t ih _ =>
    obtain ⟨hi, lo, E, hc, hd, ht, rfl⟩ := hexParse_cons_cons_ok h
    simp [hexFormat, split_join, hexDigit_of_hexValue hc, hexDigit_of_hexValue hd, ih ht]

/-- Formatting gives the very text that was parsed exactly when it holds no uppercase digit. -/
theorem hexFormat_eq_self_iff {u : Bool} {t : Text} {D : List Byte} (h : hexParse u t = .ok D) :
    hexFormat D = t ↔ ∀ ch ∈ t, isUpperHexCode ch = false := by
  have hmap : t.map lowerChar = t ↔ ∀ ch ∈ t, lowerChar ch = ch := by
    simpa using List.map_inj_left (l := t) (f := lowerChar) (g := id)
  rw [hexFormat_of_hexParse h, hmap]
  exact forall₂_congr fun ch hm => lowerChar_eq_self_iff (hexParse_ok_hexValue h ch hm)

/-! ### The statements -/

/-- Settles O2: the value of `join`, and the two halves of a byte put together and taken apart. -/
theorem joinAndSplitAreInverse : Obligations.JoinAndSplitAreInverse := ⟨join_toNat, join_split, split_join⟩

/-- Settles O4: the XOR stage of a nibble by its 16 values; the mask of R105 is moved inside the XOR; the position
enters through the counter alone. -/
theorem transformClosedFormsAndPeriod : Obligations.TransformClosedFormsAndPeriod := by
  intro n e i
  have hxor : ∀ n : Nibble, n.toNat ^^^ 0xD8 = 0xD0 ||| (n.toNat ^^^ 0x8) ∧
      n.toNat ^^^ 0xD8 = 0xD0 + (n.toNat ^^^ 0x8) ∧ n.toNat ^^^ 0xD8 ≤ 0xDF := by decide
  obtain ⟨hor, hadd, hle⟩ := hxor n
  refine ⟨⟨hor, by omega, hle⟩, ?_, ?_, by rw [posAt_mod], by rw [posAt_mod]⟩
  · rw [xformIsXorThenAddModulo256, hadd]
  · rw [ixformIsSubtractXorMask, Nat.and_xor_distrib_right]
    rfl

/-- Settles O6: the forward transform has the inverse one as its left inverse. -/
theorem ixformInvertsXform : Obligations.IxformInvertsXform :=
  fun n _ i => ⟨ixform_xform n (posAt i), fun h => xform_injective (posAt i) h⟩

/-- Settles O7: the canonical bytes are the image of the forward transform, and the preimages of a nibble are one for
each high nibble; both are injective images of the 16 nibbles. -/
theorem sixteenCanonicalBytesAndSixteenPreimages : Obligations.SixteenCanonicalBytesAndSixteenPreimages := by
  intro i
  refine ⟨(exists_xform_iff · (posAt i)), fun e => ?_, ?_, fun n => ?_⟩
  · rw [isCanonical_iff_split, ← BitVec.toNat_inj, split_fst_toNat, sub_posAt_toNat, Nat.shiftRight_eq_div_pow]
    rfl
  · exact length_filter_allBytes (xform_injective (posAt i)) (exists_xform_iff · (posAt i))
  · exact length_filter_allBytes (join_add_injective (n ^^^ 8#4) (posAt i))
      fun e => by rw [beq_iff_eq, ixform_eq_iff]

/-- Settles O12: the parse of a formatted text, the format of a parsed one, and that without HEX_ACCEPT_UPPER no
uppercase digit has a value. -/
theorem formatThenParseAndParseThenFormat : Obligations.FormatThenParseAndParseThenFormat := by
  refine ⟨hexParse_hexFormat, fun u t D h => hexFormat_of_hexParse h, fun t D h => ?_⟩
  rw [hexFormat_eq_self_iff h]
  intro ch hm
  by_contra hup
  exact Bool.false_ne_true
    (hexAcceptUpper_of_isUpperHexCode (hexParse_ok_hexValue h ch hm) (by simpa using hup))

end Sys2Proof.Machine

/-! Laws that the spec derives for the three commands (41_encode.md, 42_decode.md, 43_validate.md): the round trips of
`encodeData` and `decodeData`, the header put before a text, and when two commands agree; then the statements
themselves. -/

namespace Sys2Proof.Machine

/-! ### The round trips at the byte level (42_decode.md R146, R147) -/

theorem decodeFrom_encodeFrom (P : List Byte) (i : Nat) : decodeFrom i (encodeFrom i P) = P := by
  induction P generalizing i with
  | nil => rfl
  | cons b P ih => simp [encodeFrom, encodePair, decodeFrom, join_split, ih]

@[simp] theorem decodeData_encodeData (P : List Byte) : decodeData (encodeData P) = P := by
  rw [decodeData_eq, encodeData_eq, decodeFrom_encodeFrom]

theorem encodeData_injective : Function.Injective encodeData :=
  Function.LeftInverse.injective decodeData_encodeData

/-- The pair of a decoded byte is the pair it was decoded from where both bytes are canonical. -/
theorem encodePair_join_ixform_iff (i : Nat) (e0 e1 : Byte) :
    encodePair i (join (ixform e0 (posAt i)) (ixform e1 (posAt i))) = [e0, e1] ↔
      isCanonical e0 (posAt i) = true ∧ isCanonical e1 (posAt i) = true := by
  simp [encodePair, split_join, xform_ixform_iff]

/-- Every encoded byte is canonical at its position, the first pair standing at position `j`. -/
def CanonicalFrom (j : Nat) (E : List Byte) : Prop :=
  ∀ k e, E[k]? = some e → isCanonical e (posAt (j + k / 2)) = true

theorem allCanonical_iff (E : List Byte) : AllCanonical E ↔ CanonicalFrom 0 E := by
  simp only [AllCanonical, CanonicalFrom, Nat.zero_add, List.getElem?_eq_some_iff]
  exact ⟨fun h k _ ⟨hk, he⟩ => he ▸ h k hk, fun h k hk => h k _ ⟨hk, rfl⟩⟩

theorem canonicalFrom_cons_cons (j : Nat) (e0 e1 : Byte) (E : List Byte) :
    CanonicalFrom j (e0 :: e1 :: E) ↔
      (isCanonical e0 (posAt j) = true ∧ isCanonical e1 (posAt j) = true) ∧ CanonicalFrom (j + 1) E := by
  have hnext : ∀ k, j + (k + 1 + 1) / 2 = j + 1 + k / 2 := fun k => by omega
  constructor
  · intro h
    exact ⟨⟨h 0 e0 rfl, h 1 e1 rfl⟩, fun k e he => hnext k ▸ h (k + 1 + 1) e he⟩
  · rintro ⟨⟨h0, h1⟩, h⟩ k e he
    match k with
    | 0 => cases he; exact h0
    | 1 => cases he; exact h1
    | k + 2 => rw [hnext]; exact h k e he

theorem encodeFrom_decodeFrom_iff (E : List Byte) (j : Nat) (heven : E.length % 2 = 0) :
    encodeFrom j (decodeFrom j E) = E ↔ CanonicalFrom j E := by
  induction E using List.twoStepInduction generalizing j with
  | nil => simp [encodeFrom, decodeFrom, CanonicalFrom]
  | singleton e => simp at heven
  | cons_cons e0 e1 E ih _ =>
    have hE : E.length % 2 = 0 := by simpa [Nat.add_assoc] using heven
    rw [canonicalFrom_cons_cons, ← encodePair_join_ixform_iff, ← ih (j + 1) hE]
    simp [decodeFrom, encodeFrom, encodePair, and_assoc]

theorem encodeData_decodeData_iff {E : List Byte} (heven : E.length % 2 = 0) :
    encodeData (decodeData E) = E ↔ AllCanonical E := by
  rw [encodeData_eq, decodeData_eq, encodeFrom_decodeFrom_iff E 0 heven, allCanonical_iff]

theorem decodeData_length (E : List Byte) : (decodeData E).length = E.length / 2 := by
  rw [decodeData_eq, decodeFrom_length]

/-! ### The header before a text (40_datapath_units.md R112, R113) -/

/-- With a legal configuration, the texts that have the header are those that begin with it. -/
theorem hasHeader_and_dataPortion_iff {c : Config} (hc : c.wf = true) (t T : Text) :
    hasHeader c t = true ∧ dataPortion t = T ↔ t = c.headerText ++ T := by
  have hlen := headerText_length_of_wf hc
  constructor
  · rintro ⟨hheader, rfl⟩
    exact (headerComparedCharacterByCharacter c t hc).2 hheader
  · rintro rfl
    rw [hasHeader_iff, dataPortion, List.take_left' hlen, List.drop_left' hlen, List.length_append]
    exact ⟨⟨by omega, rfl⟩, rfl⟩

theorem hasHeader_append {c : Config} (hc : c.wf = true) (T : Text) : hasHeader c (c.headerText ++ T) = true :=
  ((hasHeader_and_dataPortion_iff hc _ T).mpr rfl).1

theorem dataPortion_append {c : Config} (hc : c.wf = true) (T : Text) : dataPortion (c.headerText ++ T) = T :=
  ((hasHeader_and_dataPortion_iff hc _ T).mpr rfl).2

/-! ### Letter case of hex text (30_encoding.md R68) -/

/-- With HEX_ACCEPT_UPPER a letter and its lowercase form have the same value, or neither has one. -/
theorem hexValue_lowerChar (ch : Byte) : hexValue true (lowerChar ch) = hexValue true ch := by
  by_cases hup : 0x41 ≤ ch.toNat ∧ ch.toNat ≤ 0x5A
  · have hlow := lowerChar_of_upper hup
    by_cases hdigit : ch.toNat ≤ 0x46
    · apply Option.map_injective (f := BitVec.toNat) fun _ _ => BitVec.eq_of_toNat_eq
      rw [hexValue_lower true (by omega), hexValue_upper true ⟨hup.1, hdigit⟩, hlow, if_pos rfl]
      exact congrArg some (by omega)
    · rw [hexValue_none true (by omega), hexValue_none true (by omega)]
  · rw [lowerChar_of_not_upper hup]

theorem hexParse_map_lowerChar (t : Text) : hexParse true (t.map lowerChar) = hexParse true t := by
  induction t using List.twoStepInduction with
  | nil => rfl
  | singleton c => rfl
  | cons_cons c d t ih _ => simp only [List.map_cons, hexParse, hexValue_lowerChar, ih]

/-! ### When ENCODE, DECODE and VALIDATE accept (30_encoding.md R70, 43_validate.md R165) -/

theorem respondEncode_congr {c : Config} {a a' : Text}
    (h : hexParse c.hexAcceptUpper a = hexParse c.hexAcceptUpper a') : respondEncode c a = respondEncode c a' := by
  simp only [respondEncode, h]

@[simp] theorem okText_out (out : Text) : (okText out).out = out := rfl

/-- What ENCODE's status OK says of its operand and its OUT. -/
theorem respondEncode_ok_iff (c : Config) (a t : Text) :
    (respondEncode c a).status = 0x00#8 ∧ t = (respondEncode c a).out ↔
      ∃ P, hexParse c.hexAcceptUpper a = .ok P ∧ t = c.headerText ++ hexFormat (encodeData P) := by
  rcases hexParse_cases c.hexAcceptUpper a with he | ⟨P, hP⟩
  · simp [respondEncode_of_error he, he, ErrorKind.code]
  · simp [respondEncode_of_ok hP, hP]

/-- What DECODE's status OK says of its operand and its answer. -/
theorem respondDecode_ok_iff (c : Config) (a : Text) :
    (respondDecode c a).status = 0x00#8 ↔
      hasHeader c a = true ∧ ∃ E, hexParse c.hexAcceptUpper (dataPortion a) = .ok E ∧ E.length % 2 = 0 := by
  rcases decode_checks_cases c a with h | ⟨h, he | ⟨E, hE, hodd | heven⟩⟩
  · simp [respondDecode_of_no_header h, h, ErrorKind.code]
  · simp [respondDecode_of_error h he, he, ErrorKind.code]
  · simp [respondDecode_of_odd h hE hodd, hE, hodd, ErrorKind.code]
  · simp [respondDecode_of_even h hE heven, h, hE, heven]

/-- A text parses to an even number of bytes exactly when all its characters have a value and come in groups of four. -/
theorem hexParse_ok_even_iff (u : Bool) (t : Text) :
    (∃ E, hexParse u t = .ok E ∧ E.length % 2 = 0) ↔ t.length % 4 = 0 ∧ ∀ ch ∈ t, hexValue u ch ≠ none := by
  constructor
  · rintro ⟨E, hE, heven⟩
    have hlen := hexParse_ok_length hE
    exact ⟨by omega, hexParse_ok_hexValue hE⟩
  · rintro ⟨hlen, hv⟩
    obtain ⟨E, hE⟩ := hexParse_ok_of_hexValue (by omega) hv
    have hlenE := hexParse_ok_length hE
    exact ⟨E, hE, by omega⟩

/-- DECODE of the header and a text of an even number of bytes. -/
theorem respondDecode_append {c : Config} (hc : c.wf = true) {T : Text} {E : List Byte}
    (hT : hexParse c.hexAcceptUpper T = .ok E) (heven : E.length % 2 = 0) :
    respondDecode c (c.headerText ++ T) = okText (hexFormat (decodeData E)) :=
  respondDecode_of_even (hasHeader_append hc T) (by rw [dataPortion_append hc, hT]) heven

/-- VALIDATE gives FLAG 1 exactly on the text that ENCODE answers operand A with. -/
theorem respondValidate_flag_iff_encode {c : Config} (hc : c.wf = true) (a b : Text) :
    (respondValidate c a b).flag = true ↔
      (respondEncode c a).status = 0x00#8 ∧ b = (respondEncode c a).out := by
  rw [respondValidate_flag_iff, respondEncode_ok_iff]
  exact exists_congr fun P => and_congr_right fun _ => hasHeader_and_dataPortion_iff hc _ _

/-- A text is the formatted form of some bytes exactly when it parses to them and holds no uppercase digit. -/
theorem eq_hexFormat_iff {u : Bool} {t : Text} {E : List Byte} (h : hexParse u t = .ok E) (D : List Byte) :
    t = hexFormat D ↔ D = E ∧ ∀ ch ∈ t, isUpperHexCode ch = false := by
  rw [← hexFormat_eq_self_iff h]
  constructor
  · rintro rfl
    cases (hexParse_hexFormat u D).symm.trans h
    exact ⟨rfl, rfl⟩
  · rintro ⟨rfl, heq⟩
    exact heq.symm

/-! ### The statements -/

/-- Settles O26: at every position the inverse transform undoes the forward one, so `decodeData` undoes `encodeData`;
ENCODE's OUT is the header and the format of an even number of bytes, which DECODE accepts. -/
theorem decodeOfEncodeIsThePayload : Obligations.DecodeOfEncodeIsThePayload := by
  refine ⟨decodeData_encodeData, fun c t b b' P hc hP => ⟨?_, fun hlower => ?_⟩⟩
  · have heven : (encodeData P).length % 2 = 0 := by rw [encodeData_length]; omega
    rw [respond_encode, respond_decode, respondEncode_of_ok hP, okText_out,
      respondDecode_append hc (hexParse_hexFormat _ _) heven, decodeData_encodeData]
    rfl
  · rw [hexFormat_of_hexParse hP, hlower]

/-- Settles O20: equal lowercase forms parse alike, and ENCODE reads its operand through the parse alone. -/
theorem encodeIgnoresLetterCase : Obligations.EncodeIgnoresLetterCase := by
  intro c a a' b b' hu hlower
  rw [respond_encode, respond_encode]
  apply respondEncode_congr
  rw [hu, ← hexParse_map_lowerChar, hlower, hexParse_map_lowerChar]

/-- Settles O21: `encodeData` has a left inverse, `hexFormat` is injective, and the header stands before both texts. -/
theorem encodeIsInjectiveOnPayloads : Obligations.EncodeIsInjectiveOnPayloads := by
  refine ⟨fun P Q h => encodeData_injective h, fun c a a' b b' P Q hP hQ hout => ?_⟩
  rw [respond_encode, respond_encode, respondEncode_of_ok hP, respondEncode_of_ok hQ, okText_out, okText_out] at hout
  exact encodeData_injective (hexFormat_injective (List.append_cancel_left hout))

/-- Settles O25: the accepted texts are the header and groups of four characters with a value, one payload byte a
group. -/
theorem decodeAcceptsHeaderAndGroupsOfFour : Obligations.DecodeAcceptsHeaderAndGroupsOfFour := by
  intro c a b hc
  rw [respond_decode]
  constructor
  · rw [respondDecode_ok_iff, hexParse_ok_even_iff]
    constructor
    · rintro ⟨hheader, hT⟩
      exact ⟨dataPortion a, (hasHeader_and_dataPortion_iff hc a _).mp ⟨hheader, rfl⟩, hT⟩
    · rintro ⟨T, rfl, hT⟩
      rw [dataPortion_append hc]
      exact ⟨hasHeader_append hc T, hT⟩
  · rw [respondDecode_ok_iff]
    rintro ⟨hheader, E, hE, heven⟩
    have hlen := hexParse_ok_length hE
    rw [dataPortion, List.length_drop] at hlen
    rw [respondDecode_of_even hheader hE heven, okText_out, hexFormat_length, decodeData_length]
    omega

/-- Settles O27: DECODE looks at no byte's form; encoding a decoded pair gives the pair back where both its bytes are
canonical at their position. -/
theorem encodeOfDecodeIsIdentityOnlyOnCanonicalBytes : Obligations.EncodeOfDecodeIsIdentityOnlyOnCanonicalBytes := by
  refine ⟨fun c T b E hc hT heven => ?_, fun E heven => encodeData_decodeData_iff heven⟩
  rw [respond_decode, respondDecode_append hc hT heven]
  rfl

/-- Settles O30: the header and the re-derived text together are ENCODE's OUT. -/
theorem validateFlagIffOutputOfEncode : Obligations.ValidateFlagIffOutputOfEncode := by
  intro c a b b' hc
  rw [respond_validate, respond_encode, respondValidate_flag_iff_encode hc]

/-- Settles O31: a text that differs at a position or in its length is another text than ENCODE's OUT. -/
theorem validateRejectsEveryMutation : Obligations.ValidateRejectsEveryMutation := by
  intro c a b' s' P hc _
  have hreject : s' ≠ (respond c ⟨0x01#8, a, b'⟩).out → (respond c ⟨0x03#8, a, s'⟩).flag = false := fun hne => by
    rw [← Bool.not_eq_true, validateFlagIffOutputOfEncode c a s' b' hc]
    exact fun h => hne h.2
  exact ⟨fun ⟨k, hk⟩ => hreject fun heq => hk (by rw [heq]), fun hlen => hreject fun heq => hlen (by rw [heq])⟩

/-- Settles O32: VALIDATE compares the data portion with the format of the bytes encoded again, and these are the parsed
bytes exactly when all of them are canonical. -/
theorem validateStricterThanDecode : Obligations.ValidateStricterThanDecode := by
  intro c b t b' E hc hdecode hE
  rw [respond_decode] at hdecode
  obtain ⟨hheader, F, hF, heven⟩ := (respondDecode_ok_iff c b).mp (by rw [hdecode])
  cases hE.symm.trans hF
  rw [respondDecode_of_even hheader hE heven] at hdecode
  obtain rfl : hexFormat (decodeData E) = t := congrArg Response.out hdecode
  constructor
  · have hflag : (respondValidate c (hexFormat (decodeData E)) b).flag = true ↔
        AllCanonical E ∧ ∀ ch ∈ dataPortion b, isUpperHexCode ch = false := by
      rw [respondValidate_flag_iff, ← encodeData_decodeData_iff heven, ← eq_hexFormat_iff hE]
      simp [hheader]
    rw [respond_validate, ← Bool.not_eq_true, hflag, not_and_or]
    simp
  · rintro ⟨ch, hm, hup⟩
    exact hexAcceptUpper_of_isUpperHexCode (hexParse_ok_hexValue hE ch hm) hup

end Sys2Proof.Machine

/-! The words of a request (30_encoding.md R60, 95_test_vectors.md section 3, log 7): what the reader takes from the
front of the words, there and back; then the statements themselves. -/

namespace Sys2Proof

open Sys2Proof.Machine

/-! ### Reading back what was laid out -/

theorem takeChars_append (t : Text) (ws : List Nat) :
    takeChars t.length (t.map BitVec.toNat ++ ws) = .ok (t, ws) := by
  induction t with
  | nil => rfl
  | cons ch t ih =>
    have hbyte : ¬ 256 ≤ ch.toNat := Nat.not_le.mpr ch.isLt
    simp [takeChars, ih, hbyte]

theorem takeOperand_operandWords (t : Text) (ws : List Nat) : takeOperand (operandWords t ++ ws) = .ok (t, ws) :=
  takeChars_append t ws

theorem readRequest_requestWords (r : Request) : readRequest (requestWords r) = .ok r := by
  have hop : ¬ 256 ≤ r.op.toNat := Nat.not_le.mpr r.op.isLt
  have hb : takeOperand (operandWords r.b) = .ok (r.b, []) := by simpa using takeOperand_operandWords r.b []
  simp [readRequest, requestWords, hop, takeOperand_operandWords, hb]

theorem decode_encode (i : Instr) : decode (encode i) = .ok i := by
  cases i <;> rfl

theorem decodeWords_requestWords (r : Request) : decodeWords (requestWords r) = decode r := by
  simp [decodeWords, readRequest_requestWords]

/-! ### Only what was laid out is read -/

theorem takeChars_ok {n : Nat} {ws rest : List Nat} {t : Text} (h : takeChars n ws = .ok (t, rest)) :
    n = t.length ∧ ws = t.map BitVec.toNat ++ rest := by
  induction n generalizing ws t with
  | zero => cases h; exact ⟨rfl, rfl⟩
  | succ n ih =>
    cases ws with
    | nil => cases h
    | cons w ws =>
      simp only [takeChars] at h
      split at h
      · cases h
      · next hw =>
        split at h
        · next t' rest' htail =>
          cases h
          obtain ⟨rfl, rfl⟩ := ih htail
          simp [Nat.mod_eq_of_lt (Nat.not_le.mp hw)]
        · cases h

theorem takeOperand_ok {ws rest : List Nat} {t : Text} (h : takeOperand ws = .ok (t, rest)) :
    ws = operandWords t ++ rest := by
  cases ws with
  | nil => cases h
  | cons n ws =>
    obtain ⟨rfl, rfl⟩ := takeChars_ok h
    rfl

theorem readRequest_ok {ws : List Nat} {r : Request} (h : readRequest ws = .ok r) : ws = requestWords r := by
  cases ws with
  | nil => cases h
  | cons op ws =>
    simp only [readRequest] at h
    split at h
    · cases h
    · next hop =>
      split at h
      · cases h
      · next a ws' ha =>
        split at h
        · cases h
        · next b hb =>
          cases h
          rw [takeOperand_ok ha, takeOperand_ok hb]
          simp [requestWords, Nat.mod_eq_of_lt (Nat.not_le.mp hop)]
        · cases h

theorem decodeWords_ok {ws : List Nat} {i : Instr} (h : decodeWords ws = .ok i) :
    ∃ r, readRequest ws = .ok r ∧ decode r = .ok i := by
  unfold decodeWords at h
  split at h
  · cases h
  · next r hr => exact ⟨r, hr, h⟩

/-! ### The statements -/

/-- Settles O35: each operand is read back from its length and its characters, whatever words follow. -/
theorem decodeOfEncodedWordsIsTheCommand : Obligations.DecodeOfEncodedWordsIsTheCommand :=
  ⟨fun i => by rw [encodeWords, decodeWords_requestWords, decode_encode], readRequest_requestWords⟩

/-- Settles O36: the words that are read as a request are its words, and a command's request is the one that decodes to
it. -/
theorem onlyItsOwnWordsDecodeToACommand : Obligations.OnlyItsOwnWordsDecodeToACommand := by
  intro ws i h
  obtain ⟨r, hread, hdecode⟩ := decodeWords_ok h
  rw [readRequest_ok hread, encodeWords, encode_of_decode hdecode]

/-- Settles O34: the five lists of words are short, and the decoder is evaluated on each. -/
theorem requestWordsOfTheSpecDecode : Obligations.RequestWordsOfTheSpecDecode := by
  unfold Obligations.RequestWordsOfTheSpecDecode
  decide

end Sys2Proof

/-! The responses (30_encoding.md R66) and the commands that deliver them (10_state.md R26, 20_memory.md R53): the
response of each OP, and an answer by its capacity alone; then the statements themselves. -/

namespace Sys2Proof.Machine

/-! ### Which response an OP gets -/

/-- The four responses of R62 and R64, by the request's OP. -/
theorem respond_cases (c : Config) (r : Request) :
    (r.op = 0x01#8 ∧ respond c r = respondEncode c r.a) ∨
    (r.op = 0x02#8 ∧ respond c r = respondDecode c r.a) ∨
    (r.op = 0x03#8 ∧ respond c r = respondValidate c r.a r.b) ∨
    ((r.op ≠ 0x01#8 ∧ r.op ≠ 0x02#8 ∧ r.op ≠ 0x03#8) ∧ respond c r = raiseError .illegalCommand) := by
  obtain ⟨op, a, b⟩ := r
  by_cases h1 : op = 0x01#8
  · subst h1; exact .inl ⟨rfl, rfl⟩
  by_cases h2 : op = 0x02#8
  · subst h2; exact .inr (.inl ⟨rfl, rfl⟩)
  by_cases h3 : op = 0x03#8
  · subst h3; exact .inr (.inr (.inl ⟨rfl, rfl⟩))
  · exact .inr (.inr (.inr ⟨⟨h1, h2, h3⟩, by simp [respond, decode, h1, h2, h3]⟩))

@[simp] theorem raiseError_out (e : ErrorKind) : (raiseError e).out = [] := rfl

@[simp] theorem raiseError_flag (e : ErrorKind) : (raiseError e).flag = false := rfl

@[simp] theorem okText_flag (out : Text) : (okText out).flag = false := rfl

@[simp] theorem okFlag_out (flag : Bool) : (okFlag flag).out = [] := rfl

/-- ENCODE ends in MALFORMED_HEX or in status OK, with FLAG 0. -/
theorem respondEncode_kinds (c : Config) (a : Text) :
    respondEncode c a = raiseError .malformedHex ∨ ∃ t, respondEncode c a = okText t := by
  rcases hexParse_cases c.hexAcceptUpper a with he | ⟨P, hP⟩
  · exact .inl (respondEncode_of_error he)
  · exact .inr ⟨_, respondEncode_of_ok hP⟩

/-- DECODE ends in one of its three errors or in status OK, with FLAG 0. -/
theorem respondDecode_kinds (c : Config) (a : Text) :
    (∃ e, e ≠ .illegalCommand ∧ respondDecode c a = raiseError e) ∨ ∃ t, respondDecode c a = okText t := by
  rcases decode_checks_cases c a with h | ⟨h, he | ⟨E, hE, hodd | heven⟩⟩
  · exact .inl ⟨_, by decide, respondDecode_of_no_header h⟩
  · exact .inl ⟨_, by decide, respondDecode_of_error h he⟩
  · exact .inl ⟨_, by decide, respondDecode_of_odd h hE hodd⟩
  · exact .inr ⟨_, respondDecode_of_even h hE heven⟩

/-! ### Answers and refusals by capacity -/

theorem request_wf_iff (c : Config) (r : Request) : r.wf c = true ↔ c.fits r.a = true ∧ c.fits r.b = true := by
  simp [Request.wf]

/-- A command's request is within capacity exactly when the command is (30_encoding.md R65). -/
theorem encode_wf (c : Config) (i : Instr) : (encode i).wf c = i.wf c := by
  cases i with
  | encode a b => exact (Laws.OpCode.encode a b).1 c
  | decode a b => exact (Laws.OpCode.decode a b).1 c
  | validate a b => exact (Laws.OpCode.validate a b).1 c

theorem answer_of_wf {r : Request} {s : State} (h : r.wf s.cfg = true) (resp : Response) :
    answer r.a r.b resp s = .next (s.deliver resp) := by
  rw [answer_eq, if_pos ((request_wf_iff s.cfg r).mp h)]

theorem answer_of_not_wf {r : Request} {s : State} (h : r.wf s.cfg = false) (resp : Response) :
    answer r.a r.b resp s = .refused .overCapacity := by
  rw [answer_eq, if_neg (by rw [← request_wf_iff, h]; exact Bool.false_ne_true)]

/-- The block's move of a Busy instance: the finished response where there is one, else the request's. -/
theorem blockDeliver_busy {s : State} {r : Request} (hp : s.phase = .busy r) :
    blockDeliver s = answer r.a r.b (s.pending.getD (respond s.cfg r)) s := by
  cases hn : s.pending with
  | none => exact blockDeliver_of_busy hp hn
  | some resp => simp [blockDeliver, hp, hn]

theorem blockDeliver_of_not_wf {s : State} {r : Request} (hp : s.phase = .busy r) (h : r.wf s.cfg = false) :
    blockDeliver s = .refused .overCapacity := by
  rw [blockDeliver_busy hp, answer_of_not_wf h]

theorem blockTick_of_not_wf {s : State} {r : Request} (hp : s.phase = .busy r) (h : r.wf s.cfg = false) :
    blockTick s = .refused .overCapacity := by
  simp [blockTick, hp, h]

/-! ### The statements -/

/-- Settles O39, by the OP of the request and then by what its command can end in. -/
theorem statusCodesAndTheirSources : Obligations.StatusCodesAndTheirSources := by
  intro c r
  rcases respond_cases c r with ⟨hop, h⟩ | ⟨hop, h⟩ | ⟨hop, h⟩ | ⟨⟨h1, h2, h3⟩, h⟩
  · rcases respondEncode_kinds c r.a with hk | ⟨t, hk⟩
    · simp [h, hk, hop, ErrorKind.code]
    · simp [h, hk, hop]
  · rcases respondDecode_kinds c r.a with ⟨e, he, hk⟩ | ⟨t, hk⟩
    · cases e <;> simp_all [ErrorKind.code]
    · simp [h, hk, hop]
  · rw [h, respondValidate_eq_okFlag]
    simp [hop]
  · simp [h, h1, h2, h3, ErrorKind.code]

/-- The response of a command has a status of at most 3, since 4 is left to the reserved codes. -/
theorem respond_encode_status_le (c : Config) (i : Instr) : (respond c (encode i)).status.toNat ≤ 3 := by
  obtain ⟨hle, -, -, -, -, hreserved, -⟩ := statusCodesAndTheirSources c (encode i)
  have hne : (respond c (encode i)).status ≠ 0x04#8 := by
    rw [Ne, hreserved]
    cases i <;> simp [encode]
  bv_omega

/-- Settles O41: every command is the answer of its request's response, within the same capacity. -/
theorem everyCommandCompletesWithItsResponse : Obligations.EveryCommandCompletesWithItsResponse := by
  intro i s hw
  obtain ⟨ha, hb⟩ := (request_wf_iff s.cfg (encode i)).mp (by rw [encode_wf, hw])
  rw [exec_eq_answer]
  exact answer_answers _ _ _ s ha hb

/-- Settles O42: a command's next state is the delivery of its request's response. -/
theorem commandsChangeNothingElse : Obligations.CommandsChangeNothingElse := by
  intro i s t h
  rw [exec_eq_answer] at h
  obtain ⟨-, -, rfl⟩ := answer_next h
  exact ⟨rfl, rfl, rfl, rfl, rfl, _, rfl, respond_encode_status_le s.cfg i⟩

/-- Settles O43: issue, execution, delivery and tick each test the capacity of both operands. -/
theorem overCapacityRequestIsRefused : Obligations.OverCapacityRequestIsRefused := by
  refine ⟨fun c hc => ?_, fun i s hw => ?_, fun s r es hp hin hlen => ?_, fun s r es hp hin hlen => ?_⟩
  · simp only [Config.wf, Bool.and_eq_true, decide_eq_true_eq] at hc
    exact hc.2
  · rw [exec_eq_answer, answer_of_not_wf (by rw [encode_wf, hw])]
  · rw [step_cons hin]
    exact hostIssue_of_not_wf hp (wf_eq_false_of_overCapacity hlen)
  · have hw : r.wf s.cfg = false := wf_eq_false_of_overCapacity hlen
    rcases hin with hin | hin <;> rw [step_cons hin]
    · exact blockDeliver_of_not_wf hp hw
    · exact blockTick_of_not_wf hp hw

end Sys2Proof.Machine

/-! The work on a request, tick by tick (10_state.md R27, R29; log 6, log 19): how far it has come, what one tick of
each command does, and that every tick keeps `WorkOk` or ends in the request's response. -/

namespace Sys2Proof.Machine

/-! ### How far the work has come -/

theorem encodeData_append (P Q : List Byte) : encodeData (P ++ Q) = encodeData P ++ encodeFrom P.length Q := by
  rw [encodeData_eq, encodeFrom_append, Nat.zero_add, encodeData_eq]

theorem decodeData_append {E : List Byte} (F : List Byte) (heven : E.length % 2 = 0) :
    decodeData (E ++ F) = decodeData E ++ decodeFrom (E.length / 2) F := by
  rw [decodeData_eq, decodeFrom_append E F 0 heven, Nat.zero_add, decodeData_eq]

/-- The encoded bytes of the first `k` positions are the first `2 * k` encoded bytes. -/
theorem encodeData_take (P : List Byte) (k : Nat) (hk : k ≤ P.length) :
    encodeData (P.take k) = (encodeData P).take (2 * k) := by
  have hlen : (encodeData (P.take k)).length = 2 * k := by rw [encodeData_length, List.length_take_of_le hk]
  conv_rhs => rw [← List.take_append_drop k P, encodeData_append]
  rw [List.take_left' hlen]

/-- The payload bytes of the first `k` pairs are the first `k` payload bytes. -/
theorem decodeData_take (E : List Byte) (k : Nat) (hk : 2 * k ≤ E.length) :
    decodeData (E.take (2 * k)) = (decodeData E).take k := by
  have htake : (E.take (2 * k)).length = 2 * k := List.length_take_of_le hk
  have hlen : (decodeData (E.take (2 * k))).length = k := by rw [decodeData_length, htake]; omega
  conv_rhs => rw [← List.take_append_drop (2 * k) E, decodeData_append _ (by rw [htake]; omega)]
  rw [List.take_left' hlen]

theorem EncodeProgress.pos_eq {P : List Byte} {w : Work} (h : EncodeProgress P w) :
    w.pos = posAt (w.out.length / 2) := h.2.2

theorem DecodeProgress.pos_eq {E : List Byte} {w : Work} (h : DecodeProgress E w) : w.pos = posAt w.out.length := h.2.2

theorem EncodeProgress.out_length {P : List Byte} {w : Work} (h : EncodeProgress P w) :
    w.out.length = 2 * (w.out.length / 2) ∧ w.out.length ≤ 2 * P.length := by
  obtain ⟨hk, hout, -⟩ := h
  have hlen := congrArg List.length hout
  rw [encodeData_length, List.length_take_of_le hk] at hlen
  omega

theorem EncodeProgress.out_eq_take {P : List Byte} {w : Work} (h : EncodeProgress P w) :
    w.out = (encodeData P).take w.out.length := by
  obtain ⟨heven, -⟩ := h.out_length
  obtain ⟨hk, hout, -⟩ := h
  rw [heven, ← encodeData_take P _ hk]
  exact hout

/-- The work of ENCODE has built all its output, or the next payload byte stands at its position. -/
theorem EncodeProgress.cases {P : List Byte} {w : Work} (h : EncodeProgress P w) :
    (w.out.length = 2 * P.length ∧ w.out = encodeData P) ∨
      (w.out.length < 2 * P.length ∧ ∃ b, P[w.out.length / 2]? = some b) := by
  obtain ⟨heven, hle⟩ := h.out_length
  rcases Nat.lt_or_eq_of_le hle with hlt | heq
  · exact .inr ⟨hlt, _, List.getElem?_eq_getElem (by omega)⟩
  · refine .inl ⟨heq, h.out_eq_take.trans ?_⟩
    rw [List.take_of_length_le (by rw [encodeData_length]; omega)]

/-- A position of ENCODE continues the output and moves the position index on. -/
theorem EncodeProgress.next {P : List Byte} {w : Work} {b : Byte} (h : EncodeProgress P w)
    (hb : P[w.out.length / 2]? = some b) : EncodeProgress P (encodePosition w b) := by
  obtain ⟨hk, hout, hpos⟩ := h
  obtain ⟨hlt, rfl⟩ := List.getElem?_eq_some_iff.mp hb
  have hnext : (encodePosition w P[w.out.length / 2]).out.length / 2 = w.out.length / 2 + 1 := by
    simp only [encodePosition_out, List.length_append, List.length_cons, List.length_nil]
    omega
  refine ⟨by rw [hnext]; exact hlt, ?_, by rw [hnext, encodePosition_pos, hpos, posAt_succ]⟩
  rw [hnext, List.take_add_one, List.getElem?_eq_getElem hlt, encodeData_append, ← hout, List.length_take_of_le hk,
    encodePosition_out, hpos]
  rfl

theorem DecodeProgress.out_eq_take {E : List Byte} {w : Work} (h : DecodeProgress E w) :
    w.out = (decodeData E).take w.out.length := by
  obtain ⟨hk, hout, -⟩ := h
  rw [← decodeData_take E _ hk]
  exact hout

/-- The work of DECODE has built all its output, or the next pair stands at its position. -/
theorem DecodeProgress.cases {E : List Byte} {w : Work} (h : DecodeProgress E w) (heven : E.length % 2 = 0) :
    (2 * w.out.length = E.length ∧ w.out = decodeData E) ∨
      (2 * w.out.length < E.length ∧ ∃ e0 e1 F, E.drop (2 * w.out.length) = e0 :: e1 :: F) := by
  have hle : 2 * w.out.length ≤ E.length := h.1
  rcases Nat.lt_or_eq_of_le hle with hlt | heq
  · have hnext : 2 * w.out.length + 1 < E.length := by omega
    exact .inr ⟨hlt, _, _, _, by rw [List.drop_eq_getElem_cons hlt, List.drop_eq_getElem_cons hnext]⟩
  · refine .inl ⟨heq, h.out_eq_take.trans ?_⟩
    rw [List.take_of_length_le (by rw [decodeData_length]; omega)]

/-- A position of DECODE continues the output and moves the position index on. -/
theorem DecodeProgress.next {E F : List Byte} {w : Work} {e0 e1 : Byte} (h : DecodeProgress E w)
    (hdrop : E.drop (2 * w.out.length) = e0 :: e1 :: F) : DecodeProgress E (decodePosition w e0 e1) := by
  obtain ⟨hk, hout, hpos⟩ := h
  have hlen : E.length = 2 * w.out.length + (F.length + 2) := by
    have := congrArg List.length hdrop
    simp only [List.length_drop, List.length_cons] at this
    omega
  have htake : (E.take (2 * w.out.length)).length = 2 * w.out.length := List.length_take_of_le hk
  have hnext : (decodePosition w e0 e1).out.length = w.out.length + 1 := by simp
  refine ⟨by omega, ?_, by rw [hnext, decodePosition_pos, hpos, posAt_succ]⟩
  rw [hnext, Nat.mul_add, List.take_add, hdrop, decodeData_append _ (by omega), ← hout, htake, decodePosition_out, hpos,
    Nat.mul_div_cancel_left _ (by decide)]
  rfl

/-! ### One tick of ENCODE and of VALIDATE -/

theorem tickEncode_of_getElem? {c : Config} {a : Text} {P : List Byte} {w : Work} {b : Byte}
    (hP : hexParse c.hexAcceptUpper a = .ok P) (hb : P[w.out.length / 2]? = some b) :
    tickEncode c a w = (encodePosition w b, none) := by
  obtain ⟨hlt, rfl⟩ := List.getElem?_eq_some_iff.mp hb
  simp only [tickEncode, hP, List.drop_eq_getElem_cons hlt]

theorem tickEncode_of_done {c : Config} {a : Text} {P : List Byte} {w : Work}
    (hP : hexParse c.hexAcceptUpper a = .ok P) (hlen : w.out.length = 2 * P.length) (hout : w.out = encodeData P) :
    tickEncode c a w = (w, some (respondEncode c a)) := by
  have hdrop : P.drop (w.out.length / 2) = [] := List.drop_of_length_le (by omega)
  simp only [tickEncode, hP, hdrop, respondEncode_of_ok hP, ← hout]

theorem tickEncode_of_error {c : Config} {a : Text} {e : ErrorKind} (w : Work)
    (he : hexParse c.hexAcceptUpper a = .error e) : tickEncode c a w = (w, some (respondEncode c a)) := by
  simp only [tickEncode, respondEncode, he]

theorem tickValidate_of_getElem? {c : Config} {a b : Text} {P : List Byte} {w : Work} {p : Byte}
    (hP : hexParse c.hexAcceptUpper a = .ok P) (hheader : w.headerOk = true) (hp : P[w.out.length / 2]? = some p) :
    tickValidate c a b w = (encodePosition w p, none) := by
  obtain ⟨hlt, rfl⟩ := List.getElem?_eq_some_iff.mp hp
  simp only [tickValidate, hP, hheader, List.drop_eq_getElem_cons hlt]

theorem tickValidate_of_done {c : Config} {a b : Text} {P : List Byte} {w : Work}
    (hP : hexParse c.hexAcceptUpper a = .ok P) (hheader : w.headerOk = true) (hb : hasHeader c b = true)
    (hlen : w.out.length = 2 * P.length) (hout : w.out = encodeData P) :
    tickValidate c a b w = (w, some (respondValidate c a b)) := by
  have hdrop : P.drop (w.out.length / 2) = [] := List.drop_of_length_le (by omega)
  simp only [tickValidate, respondValidate, hP, hdrop, hheader, hb, ← hout]

/-- Without the header VALIDATE ends in FLAG 0, whether operand A parses or not. -/
theorem tickValidate_of_no_header {c : Config} {a b : Text} {w : Work} (hheader : w.headerOk = false)
    (hb : hasHeader c b = false) : tickValidate c a b w = (w, some (respondValidate c a b)) := by
  simp only [tickValidate, respondValidate, hheader, hb, matchesEncoding, Bool.false_and]
  split <;> rfl

theorem tickValidate_of_error {c : Config} {a : Text} (b : Text) {e : ErrorKind} (w : Work)
    (he : hexParse c.hexAcceptUpper a = .error e) : tickValidate c a b w = (w, some (respondValidate c a b)) := by
  simp only [tickValidate, respondValidate, he]

/-! ### One tick of DECODE -/

theorem tickDecode_of_pair {c : Config} {a : Text} {E F : List Byte} {w : Work} {e0 e1 : Byte}
    (hheader : w.headerOk = true) (hE : hexParse c.hexAcceptUpper (dataPortion a) = .ok E) (heven : E.length % 2 = 0)
    (hdrop : E.drop (2 * w.out.length) = e0 :: e1 :: F) : tickDecode c a w = (decodePosition w e0 e1, none) := by
  simp [tickDecode, hheader, hE, heven, hdrop]

theorem tickDecode_of_done {c : Config} {a : Text} {E : List Byte} {w : Work} (hheader : w.headerOk = true)
    (ha : hasHeader c a = true) (hE : hexParse c.hexAcceptUpper (dataPortion a) = .ok E) (heven : E.length % 2 = 0)
    (hlen : 2 * w.out.length = E.length) (hout : w.out = decodeData E) :
    tickDecode c a w = (w, some (respondDecode c a)) := by
  have hdrop : E.drop (2 * w.out.length) = [] := List.drop_of_length_le (by omega)
  rw [respondDecode_of_even ha hE heven, ← hout]
  simp [tickDecode, hheader, hE, heven, hdrop]

theorem tickDecode_of_no_header {c : Config} {a : Text} {w : Work} (hheader : w.headerOk = false)
    (ha : hasHeader c a = false) : tickDecode c a w = (w, some (respondDecode c a)) := by
  simp [tickDecode, hheader, respondDecode_of_no_header ha]

theorem tickDecode_of_error {c : Config} {a : Text} {e : ErrorKind} {w : Work} (hheader : w.headerOk = true)
    (ha : hasHeader c a = true) (he : hexParse c.hexAcceptUpper (dataPortion a) = .error e) :
    tickDecode c a w = (w, some (respondDecode c a)) := by
  simp [tickDecode, respondDecode, hheader, ha, he]

theorem tickDecode_of_odd {c : Config} {a : Text} {E : List Byte} {w : Work} (hheader : w.headerOk = true)
    (ha : hasHeader c a = true) (hE : hexParse c.hexAcceptUpper (dataPortion a) = .ok E) (hodd : E.length % 2 = 1) :
    tickDecode c a w = (w, some (respondDecode c a)) := by
  simp [tickDecode, respondDecode, hheader, ha, hE, hodd]

/-! ### One tick of a request, by its command -/

section ByCommand

variable {c : Config} {r : Request} {a b : Text}

theorem respond_of_encode (h : decode r = .ok (.encode a b)) : respond c r = respondEncode c a := by
  simp only [respond, h]

theorem respond_of_decode (h : decode r = .ok (.decode a b)) : respond c r = respondDecode c a := by
  simp only [respond, h]

theorem respond_of_validate (h : decode r = .ok (.validate a b)) : respond c r = respondValidate c a b := by
  simp only [respond, h]

theorem tickWork_of_encode (h : decode r = .ok (.encode a b)) (w : Work) : tickWork c r w = tickEncode c a w := by
  simp only [tickWork, h]

theorem tickWork_of_decode (h : decode r = .ok (.decode a b)) (w : Work) : tickWork c r w = tickDecode c a w := by
  simp only [tickWork, h]

theorem tickWork_of_validate (h : decode r = .ok (.validate a b)) (w : Work) :
    tickWork c r w = tickValidate c a b w := by
  simp only [tickWork, h]

theorem tickWork_of_reserved {e : DecodeError} (h : decode r = .error e) (w : Work) :
    tickWork c r w = (w, some (respond c r)) := by
  simp only [tickWork, respond, h]

theorem workOk_of_encode (h : decode r = .ok (.encode a b)) (w : Work) :
    WorkOk c r w ↔ w.headerOk = false ∧ ∀ P, hexParse c.hexAcceptUpper a = .ok P → EncodeProgress P w := by
  simp only [WorkOk, headerCheck, h]

theorem workOk_of_decode (h : decode r = .ok (.decode a b)) (w : Work) :
    WorkOk c r w ↔ w.headerOk = hasHeader c a ∧
      ∀ E, hexParse c.hexAcceptUpper (dataPortion a) = .ok E → DecodeProgress E w := by
  simp only [WorkOk, headerCheck, h]

theorem workOk_of_validate (h : decode r = .ok (.validate a b)) (w : Work) :
    WorkOk c r w ↔ w.headerOk = hasHeader c b ∧ ∀ P, hexParse c.hexAcceptUpper a = .ok P → EncodeProgress P w := by
  simp only [WorkOk, headerCheck, h]

end ByCommand

/-- A tick of ENCODE or of VALIDATE with the header: the next position, or the finished response. -/
theorem tickWork_reencode {c : Config} {r : Request} {a b : Text} {P : List Byte} {w : Work}
    (hcmd : decode r = .ok (.encode a b) ∨ (decode r = .ok (.validate a b) ∧ hasHeader c b = true))
    (hP : hexParse c.hexAcceptUpper a = .ok P) (hw : WorkOk c r w) :
    EncodeProgress P w ∧ (∀ p, P[w.out.length / 2]? = some p → tickWork c r w = (encodePosition w p, none)) ∧
      (w.out.length = 2 * P.length → w.out = encodeData P → tickWork c r w = (w, some (respond c r))) := by
  rcases hcmd with h | ⟨h, hb⟩
  · obtain ⟨-, hprogress⟩ := (workOk_of_encode h w).mp hw
    rw [tickWork_of_encode h, respond_of_encode h]
    exact ⟨hprogress P hP, fun p hp => tickEncode_of_getElem? hP hp, tickEncode_of_done hP⟩
  · obtain ⟨hheader, hprogress⟩ := (workOk_of_validate h w).mp hw
    rw [tickWork_of_validate h, respond_of_validate h]
    exact ⟨hprogress P hP, fun p hp => tickValidate_of_getElem? hP (hheader.trans hb) hp,
      tickValidate_of_done hP (hheader.trans hb) hb⟩

/-- The outcome `o` of one tick of the work `w` on the request `r`: the finished response, with the work as it is, or
work that goes on and belongs to the request. -/
def TickKeeps (c : Config) (r : Request) (w : Work) (o : Work × Option Response) : Prop :=
  o = (w, some (respond c r)) ∨ ∃ w', o = (w', none) ∧ WorkOk c r w'

theorem tickWork_keeps_encode {c : Config} {r : Request} {a b : Text} {w : Work}
    (h : decode r = .ok (.encode a b)) (hw : WorkOk c r w) : TickKeeps c r w (tickWork c r w) := by
  rw [TickKeeps, tickWork_of_encode h, respond_of_encode h]
  obtain ⟨hheader, hprogress⟩ := (workOk_of_encode h w).mp hw
  rcases hexParse_cases c.hexAcceptUpper a with he | ⟨P, hP⟩
  · exact .inl (tickEncode_of_error w he)
  rcases (hprogress P hP).cases with ⟨hlen, hout⟩ | ⟨-, p, hp⟩
  · exact .inl (tickEncode_of_done hP hlen hout)
  · refine .inr ⟨_, tickEncode_of_getElem? hP hp, (workOk_of_encode h _).mpr ⟨hheader, fun Q hQ => ?_⟩⟩
    cases hP.symm.trans hQ
    exact (hprogress P hP).next hp

theorem tickWork_keeps_decode {c : Config} {r : Request} {a b : Text} {w : Work}
    (h : decode r = .ok (.decode a b)) (hw : WorkOk c r w) : TickKeeps c r w (tickWork c r w) := by
  rw [TickKeeps, tickWork_of_decode h, respond_of_decode h]
  obtain ⟨hheader, hprogress⟩ := (workOk_of_decode h w).mp hw
  rcases decode_checks_cases c a with ha | ⟨ha, he | ⟨E, hE, hodd | heven⟩⟩
  · exact .inl (tickDecode_of_no_header (hheader.trans ha) ha)
  · exact .inl (tickDecode_of_error (hheader.trans ha) ha he)
  · exact .inl (tickDecode_of_odd (hheader.trans ha) ha hE hodd)
  rcases (hprogress E hE).cases heven with ⟨hlen, hout⟩ | ⟨-, e0, e1, F, hdrop⟩
  · exact .inl (tickDecode_of_done (hheader.trans ha) ha hE heven hlen hout)
  · refine .inr ⟨_, tickDecode_of_pair (hheader.trans ha) hE heven hdrop,
      (workOk_of_decode h _).mpr ⟨hheader, fun E' hE' => ?_⟩⟩
    cases hE.symm.trans hE'
    exact (hprogress E hE).next hdrop

theorem tickWork_keeps_validate {c : Config} {r : Request} {a b : Text} {w : Work}
    (h : decode r = .ok (.validate a b)) (hw : WorkOk c r w) : TickKeeps c r w (tickWork c r w) := by
  rw [TickKeeps, tickWork_of_validate h, respond_of_validate h]
  obtain ⟨hheader, hprogress⟩ := (workOk_of_validate h w).mp hw
  rcases hexParse_cases c.hexAcceptUpper a with he | ⟨P, hP⟩
  · exact .inl (tickValidate_of_error b w he)
  cases hb : hasHeader c b with
  | false => exact .inl (tickValidate_of_no_header (hheader.trans hb) hb)
  | true =>
    rcases (hprogress P hP).cases with ⟨hlen, hout⟩ | ⟨-, p, hp⟩
    · exact .inl (tickValidate_of_done hP (hheader.trans hb) hb hlen hout)
    · refine .inr ⟨_, tickValidate_of_getElem? hP (hheader.trans hb) hp,
        (workOk_of_validate h _).mpr ⟨hheader, fun Q hQ => ?_⟩⟩
      cases hP.symm.trans hQ
      exact (hprogress P hP).next hp

theorem tickWork_keeps {c : Config} {r : Request} {w : Work} (hw : WorkOk c r w) :
    TickKeeps c r w (tickWork c r w) := by
  cases h : decode r with
  | error e => exact .inl (tickWork_of_reserved h w)
  | ok i =>
    cases i with
    | encode a b => exact tickWork_keeps_encode h hw
    | decode a b => exact tickWork_keeps_decode h hw
    | validate a b => exact tickWork_keeps_validate h hw

end Sys2Proof.Machine

/-! The step of an instance (10_state.md R26): the next move and the state it is taken from, what every move keeps, and
one rule for each move of a host that keeps its duties; then the statements on the interface, reset and instances. -/

namespace Sys2Proof.Machine

/-! ### A step is its next move -/

/-- The move that the next step takes: the block's own where none is left (log 2). -/
def State.nextMove (s : State) : Event := s.inputs.head?.getD .deliver

/-- The state with its next move taken away. -/
def State.afterMove (s : State) : State := { s with inputs := s.inputs.tail }

@[simp] theorem State.afterMove_cfg (s : State) : s.afterMove.cfg = s.cfg := rfl
@[simp] theorem State.afterMove_phase (s : State) : s.afterMove.phase = s.phase := rfl
@[simp] theorem State.afterMove_work (s : State) : s.afterMove.work = s.work := rfl
@[simp] theorem State.afterMove_pending (s : State) : s.afterMove.pending = s.pending := rfl
@[simp] theorem State.afterMove_inputs (s : State) : s.afterMove.inputs = s.inputs.tail := rfl
@[simp] theorem State.afterMove_delivered (s : State) : s.afterMove.delivered = s.delivered := rfl

theorem State.nextMove_of_nil {s : State} (h : s.inputs = []) : s.nextMove = .deliver := by simp [nextMove, h]

theorem State.nextMove_of_cons {s : State} {e : Event} {es : List Event} (h : s.inputs = e :: es) :
    s.nextMove = e := by simp [nextMove, h]

theorem State.afterMove_of_cons {s : State} {e : Event} {es : List Event} (h : s.inputs = e :: es) :
    s.afterMove = { s with inputs := es } := by simp [afterMove, h]

theorem State.afterMove_inv {s : State} (h : s.Inv) : s.afterMove.Inv := State.inv_of_inputs _ h

theorem step_eq_move (s : State) : step s = move s.nextMove s.afterMove := by
  cases h : s.inputs with
  | nil =>
    have hsame : s.afterMove = s := by rw [State.afterMove, h, List.tail_nil, ← h]
    rw [step_nil h, State.nextMove_of_nil h, hsame]
    rfl
  | cons e es => rw [step_cons h, State.nextMove_of_cons h, State.afterMove_of_cons h]

/-! ### What every move keeps -/

theorem State.Inv.cfg_wf {s : State} (hs : s.Inv) : s.cfg.wf = true := hs.1

/-- A move leaves the constants and the moves to come, and delivers one response at most, only from Busy to Idle. -/
theorem move_frame {e : Event} {s t : State} (h : move e s = .next t) :
    t.cfg = s.cfg ∧ t.inputs = s.inputs ∧
      (t.delivered = s.delivered ∨ ∃ r, t.delivered = s.delivered ++ [r] ∧ s.phase ≠ .idle ∧ t.phase = .idle) := by
  cases e with
  | issue r =>
    obtain ⟨-, -, rfl⟩ := hostIssue_next h
    exact ⟨rfl, rfl, .inl rfl⟩
  | reset =>
    cases h
    exact ⟨rfl, rfl, .inl rfl⟩
  | tick =>
    rcases blockTick_next h with rfl | ⟨r, -, -, -, rfl⟩ <;> exact ⟨rfl, rfl, .inl rfl⟩
  | deliver =>
    rcases blockDeliver_next h with ⟨-, rfl⟩ | ⟨r, hp, -, ⟨resp, -, rfl⟩ | ⟨-, rfl⟩⟩
    · exact ⟨rfl, rfl, .inl rfl⟩
    · exact ⟨rfl, rfl, .inr ⟨_, rfl, by simp [hp], rfl⟩⟩
    · exact ⟨rfl, rfl, .inr ⟨_, rfl, by simp [hp], rfl⟩⟩

/-- One more tick of the work on the held request meets the invariant. -/
theorem State.tick_inv {s : State} {r : Request} (hs : s.Inv) (hp : s.phase = .busy r) :
    State.Inv { s with work := (tickWork s.cfg r s.work).1, pending := (tickWork s.cfg r s.work).2 } := by
  obtain ⟨hc, hw, -, hwork⟩ := hs.of_busy hp
  rcases tickWork_keeps hwork with h | ⟨w', h, hw'⟩
  · simp [State.Inv, hp, hc, hw, h, hwork]
  · simp [State.Inv, hp, hc, hw, h, hw']

theorem move_keeps_inv {e : Event} {s t : State} (hs : s.Inv) (h : move e s = .next t) : t.Inv := by
  cases e with
  | issue r =>
    obtain ⟨-, hw, rfl⟩ := hostIssue_next h
    exact State.begin_inv hs.cfg_wf hw
  | reset =>
    cases h
    exact State.release_inv hs.cfg_wf
  | tick =>
    rcases blockTick_next h with rfl | ⟨r, hp, -, -, rfl⟩
    · exact hs
    · exact State.tick_inv hs hp
  | deliver =>
    rcases blockDeliver_next h with ⟨-, rfl⟩ | ⟨r, -, -, ⟨resp, -, rfl⟩ | ⟨-, rfl⟩⟩
    · exact hs
    · exact State.deliver_inv _ hs.cfg_wf
    · exact State.deliver_inv _ hs.cfg_wf

/-! ### Each move, from a state that meets the invariant -/

theorem State.held_eq_some_iff {s : State} {r : Request} : s.held = some r ↔ s.phase = .busy r := by
  cases h : s.phase <;> simp [State.held, h]

theorem State.held_eq_none_iff {s : State} : s.held = none ↔ s.phase = .idle := by
  cases h : s.phase <;> simp [State.held, h]

theorem State.Inv.of_idle {s : State} (hs : s.Inv) (hp : s.phase = .idle) : s.cfg.wf = true ∧ s.pending = none := by
  simpa [State.Inv, hp] using hs

theorem hostIssue_of_busy {s : State} {q : Request} (r : Request) (hp : s.phase = .busy q) :
    hostIssue r s = .refused .requestWhileBusy := by
  simp [hostIssue, hp]

theorem hostIssue_of_wf {s : State} {r : Request} (hp : s.phase = .idle) (hw : r.wf s.cfg = true) :
    hostIssue r s = .next (s.begin r) := by
  simp [hostIssue, hp, hw]

theorem blockTick_idle {s : State} (hp : s.phase = .idle) : blockTick s = .next s := by simp [blockTick, hp]

theorem blockTick_busy {s : State} {r : Request} (hp : s.phase = .busy r) (hw : r.wf s.cfg = true)
    (hn : s.pending = none) :
    blockTick s =
      .next { s with work := (tickWork s.cfg r s.work).1, pending := (tickWork s.cfg r s.work).2 } := by
  simp [blockTick, hp, hw, hn]

theorem blockTick_finished {s : State} {r : Request} {resp : Response} (hp : s.phase = .busy r)
    (hw : r.wf s.cfg = true) (hn : s.pending = some resp) : blockTick s = .next s := by
  simp [blockTick, hp, hw, hn]

theorem blockDeliver_idle {s : State} (hp : s.phase = .idle) : blockDeliver s = .next s := by
  simp [blockDeliver, hp]

/-- A Busy instance delivers the response of its request, finished before or not. -/
theorem blockDeliver_of_inv {s : State} {r : Request} (hs : s.Inv) (hp : s.phase = .busy r) :
    blockDeliver s = .next (s.deliver (respond s.cfg r)) := by
  obtain ⟨-, hw, hpending, -⟩ := hs.of_busy hp
  have hresp : s.pending.getD (respond s.cfg r) = respond s.cfg r := by
    rcases hpending with h | h <;> simp [h]
  rw [blockDeliver_busy hp, hresp, answer_of_wf hw]

theorem step_deliver_busy {s : State} {r : Request} (hs : s.Inv) (hmove : s.nextMove = .deliver)
    (hp : s.phase = .busy r) : step s = .next (s.afterMove.deliver (respond s.cfg r)) := by
  rw [step_eq_move, hmove]
  exact blockDeliver_of_inv (State.afterMove_inv hs) hp

theorem step_tick_busy {s : State} {r : Request} (hs : s.Inv) (hmove : s.nextMove = .tick) (hp : s.phase = .busy r)
    (hn : s.pending = none) :
    step s = .next { s.afterMove with
      work := (tickWork s.cfg r s.work).1, pending := (tickWork s.cfg r s.work).2 } := by
  obtain ⟨-, hw, -, -⟩ := hs.of_busy hp
  rw [step_eq_move, hmove]
  exact blockTick_busy (s := s.afterMove) hp hw hn

/-- `t` is the state after one move of `s`: it meets the invariant, its instance holds `held`, and the responses `out`
have been delivered. -/
def Continues (s t : State) (held : Option Request) (out : List Response) : Prop :=
  t.Inv ∧ t.held = held ∧ t.cfg = s.cfg ∧ t.inputs = s.inputs.tail ∧ t.delivered = s.delivered ++ out

theorem step_issue_continues {s : State} {r : Request} (hs : s.Inv) (hmove : s.nextMove = .issue r)
    (hp : s.phase = .idle) (hw : r.wf s.cfg = true) : ∃ t, step s = .next t ∧ Continues s t (some r) [] := by
  refine ⟨s.afterMove.begin r, ?_, State.begin_inv hs.cfg_wf hw, rfl, rfl, rfl, by simp⟩
  rw [step_eq_move, hmove]
  exact hostIssue_of_wf hp hw

theorem step_reset_continues {s : State} (hs : s.Inv) (hmove : s.nextMove = .reset) :
    ∃ t, step s = .next t ∧ Continues s t none [] := by
  refine ⟨s.afterMove.takeReset, ?_, State.release_inv hs.cfg_wf, rfl, rfl, rfl, by simp⟩
  rw [step_eq_move, hmove]
  rfl

theorem step_tick_continues {s : State} (hs : s.Inv) (hmove : s.nextMove = .tick) :
    ∃ t, step s = .next t ∧ Continues s t s.held [] := by
  have hwait : Continues s s.afterMove s.held [] := ⟨State.afterMove_inv hs, rfl, rfl, rfl, by simp⟩
  cases hp : s.phase with
  | idle => exact ⟨s.afterMove, by rw [step_eq_move, hmove]; exact blockTick_idle hp, hwait⟩
  | busy r =>
    obtain ⟨-, hw, -, -⟩ := hs.of_busy hp
    cases hn : s.pending with
    | none =>
      exact ⟨_, step_tick_busy hs hmove hp hn, State.tick_inv (State.afterMove_inv hs) hp, rfl, rfl, rfl, by simp⟩
    | some resp => exact ⟨s.afterMove, by rw [step_eq_move, hmove]; exact blockTick_finished hp hw hn, hwait⟩

theorem step_deliver_continues_idle {s : State} (hs : s.Inv) (hmove : s.nextMove = .deliver) (hp : s.phase = .idle) :
    ∃ t, step s = .next t ∧ Continues s t none [] := by
  refine ⟨s.afterMove, ?_, State.afterMove_inv hs, State.held_of_idle hp, rfl, rfl, by simp⟩
  rw [step_eq_move, hmove]
  exact blockDeliver_idle hp

theorem step_deliver_continues_busy {s : State} {r : Request} (hs : s.Inv) (hmove : s.nextMove = .deliver)
    (hp : s.phase = .busy r) : ∃ t, step s = .next t ∧ Continues s t none [respond s.cfg r] :=
  ⟨_, step_deliver_busy hs hmove hp, State.deliver_inv _ hs.cfg_wf, rfl, rfl, rfl, rfl⟩

/-! ### A run of moves that keep the host's duties (70_reset_and_hazards.md R195) -/

/-- What one move keeps of the claim on the whole run: `t` has the rest of the moves before it, and these are owed what
is still missing. -/
def StaysDutiful (s t : State) (es : List Event) : Prop :=
  t.Inv ∧ t.inputs = es ∧ t.cfg = s.cfg ∧ keepsDuties t.cfg t.held es = true ∧
    t.delivered ++ owed t.cfg t.held es = s.delivered ++ owed s.cfg s.held s.inputs

theorem Continues.staysDutiful {s t : State} {held : Option Request} {out : List Response} {e : Event}
    {es : List Event} (h : Continues s t held out) (hin : s.inputs = e :: es)
    (hkeep : keepsDuties s.cfg held es = true) (howed : owed s.cfg s.held (e :: es) = out ++ owed s.cfg held es) :
    StaysDutiful s t es := by
  obtain ⟨ht, hheld, hcfg, hinputs, hdelivered⟩ := h
  refine ⟨ht, by rw [hinputs, hin, List.tail_cons], hcfg, by rw [hcfg, hheld, hkeep], ?_⟩
  rw [hcfg, hheld, hdelivered, hin, howed, List.append_assoc]

theorem dutiful_step {s : State} {e : Event} {es : List Event} (hs : s.Inv) (hin : s.inputs = e :: es)
    (hkeep : keepsDuties s.cfg s.held (e :: es) = true) : ∃ t, step s = .next t ∧ StaysDutiful s t es := by
  have hmove := State.nextMove_of_cons hin
  cases e with
  | issue r =>
    cases hp : s.phase with
    | busy q => simp [State.held_of_busy hp, keepsDuties] at hkeep
    | idle =>
      obtain ⟨hw, hkeep⟩ : r.wf s.cfg = true ∧ keepsDuties s.cfg (some r) es = true := by
        simpa [State.held_of_idle hp, keepsDuties] using hkeep
      obtain ⟨t, hstep, ht⟩ := step_issue_continues hs hmove hp hw
      exact ⟨t, hstep, ht.staysDutiful hin hkeep (by simp [owed])⟩
  | reset =>
    obtain ⟨t, hstep, ht⟩ := step_reset_continues hs hmove
    exact ⟨t, hstep, ht.staysDutiful hin (by simpa [keepsDuties] using hkeep) (by simp [owed])⟩
  | tick =>
    obtain ⟨t, hstep, ht⟩ := step_tick_continues hs hmove
    exact ⟨t, hstep, ht.staysDutiful hin (by simpa [keepsDuties] using hkeep) (by simp [owed])⟩
  | deliver =>
    have hkeep' : keepsDuties s.cfg none es = true := by simpa [keepsDuties] using hkeep
    cases hp : s.phase with
    | idle =>
      obtain ⟨t, hstep, ht⟩ := step_deliver_continues_idle hs hmove hp
      exact ⟨t, hstep, ht.staysDutiful hin hkeep' (by simp [State.held_of_idle hp, owed])⟩
    | busy r =>
      obtain ⟨t, hstep, ht⟩ := step_deliver_continues_busy hs hmove hp
      exact ⟨t, hstep, ht.staysDutiful hin hkeep' (by simp [State.held_of_busy hp, owed])⟩

/-- With no move left the instance answers what it holds and stays Idle. -/
theorem step_of_no_move {s : State} (hs : s.Inv) (hin : s.inputs = []) :
    ∃ t, step s = .next t ∧ Continues s t none (owed s.cfg s.held []) := by
  have hmove := State.nextMove_of_nil hin
  cases hp : s.phase with
  | idle => simpa [State.held_of_idle hp, owed] using step_deliver_continues_idle hs hmove hp
  | busy r => simpa [State.held_of_busy hp, owed] using step_deliver_continues_busy hs hmove hp

theorem run_one {s t : State} (h : step s = .next t) : core.run 1 s = .next t := run_succ 0 h

/-! ### The request of a table word (30_encoding.md R63) -/

theorem decodeTableWord_some {w : Nat} {i : Instr} (h : decodeTableWord 8 w = some i) :
    w < 256 ∧ decode (tableRequest w) = .ok i := by
  have hwords : tableWords w = requestWords (tableRequest w) := rfl
  unfold decodeTableWord at h
  split at h
  · next hw =>
    rw [hwords, decodeWords_requestWords] at h
    split at h
    · next i' hi =>
      cases h
      exact ⟨hw.2, hi⟩
    · cases h
  · cases h

/-! ### Steps of a system (60_exceptions.md R179) -/

namespace System

variable {S S' : System} {k : Nat}

theorem stepAt_of_none (h : S[k]? = none) : S.stepAt k = .next S := by simp [stepAt, h]

theorem stepAt_of_some {s t : State} (h : S[k]? = some s) (hstep : step s = .next t) :
    S.stepAt k = .next (S.set k t) := by simp [stepAt, h, hstep]

/-- What a step at a place can end in: no instance stands there, or the one that does takes its own step. -/
theorem stepAt_next (h : S.stepAt k = .next S') :
    (S[k]? = none ∧ S' = S) ∨ ∃ s t, S[k]? = some s ∧ step s = .next t ∧ S' = S.set k t := by
  cases hk : S[k]? with
  | none =>
    rw [stepAt_of_none hk] at h
    cases h
    exact .inl ⟨rfl, rfl⟩
  | some s =>
    simp only [stepAt, hk] at h
    split at h
    · next t hstep =>
      cases h
      exact .inr ⟨s, t, rfl, hstep, rfl⟩
    · cases h
    · cases h

theorem stepAt_getElem?_ne {m : Nat} (h : S.stepAt k = .next S') (hm : m ≠ k) : S'[m]? = S[m]? := by
  rcases stepAt_next h with ⟨-, rfl⟩ | ⟨s, t, -, -, rfl⟩
  · rfl
  · exact List.getElem?_set_ne hm.symm

/-- Steps at two places give the same in either order. -/
theorem stepAt_comm {S'' : System} {j : Nat} (hjk : j ≠ k) (hj : S.stepAt j = .next S')
    (hk : S'.stepAt k = .next S'') : ∃ T : System, S.stepAt k = .next T ∧ T.stepAt j = .next S'' := by
  have hSk : S'[k]? = S[k]? := stepAt_getElem?_ne hj hjk.symm
  rcases stepAt_next hk with ⟨hnone, rfl⟩ | ⟨s, u, hsome, hstep, rfl⟩
  · exact ⟨S, stepAt_of_none (hSk ▸ hnone), hj⟩
  · have hT : S.stepAt k = .next (S.set k u) := stepAt_of_some (hSk ▸ hsome) hstep
    have hTj : (S.set k u)[j]? = S[j]? := stepAt_getElem?_ne hT hjk
    refine ⟨S.set k u, hT, ?_⟩
    rcases stepAt_next hj with ⟨hnone, rfl⟩ | ⟨v, t, hv, hvt, rfl⟩
    · exact stepAt_of_none (hTj.trans hnone)
    · rw [stepAt_of_some (hTj.trans hv) hvt, List.set_comm _ _ hjk]

end System

/-! ### The statements on the invariant and the interface -/

/-- Settles O54: the step is a move from a state that meets the invariant as well; a tick keeps it because the work on
every command either goes on position by position or ends in the request's response. -/
theorem everyStepKeepsTheInvariant : Obligations.EveryStepKeepsTheInvariant := by
  intro s t hs h
  rw [step_eq_move] at h
  exact move_keeps_inv (State.afterMove_inv hs) h

/-- Settles O53: the default configuration is legal, and an Idle instance has nothing pending. -/
theorem resetMeetsTheInvariant : Obligations.ResetMeetsTheInvariant := ⟨by decide, rfl⟩

/-- Settles O47: the fields of `State.reset`, and the header's 32 codes parsed. -/
theorem resetStateIsIdleWithTheDefaultConstants : Obligations.ResetStateIsIdleWithTheDefaultConstants :=
  ⟨rfl, rfl, rfl, rfl, by decide, by decide, by decide⟩

/-- Settles O51: the step takes one move away, and the move keeps the rest. -/
theorem stepKeepsTheConstantsAndDeliversAtMostOne : Obligations.StepKeepsTheConstantsAndDeliversAtMostOne := by
  intro s t h
  rw [step_eq_move] at h
  exact move_frame h

/-- Settles O44: the next move is the block's own, and the decoded command is the held request's. -/
theorem stepRunsTheDecodedCommand : Obligations.StepRunsTheDecodedCommand := by
  intro s r i hp hn hi hin
  have hmove : s.nextMove = .deliver := by
    rcases hin with hin | hin <;> simp [State.nextMove, hin]
  obtain rfl := encode_of_decode hi
  rw [step_eq_move, hmove, exec_eq_answer]
  exact blockDeliver_of_busy hp hn

/-- Settles O45: the table word's request is held and a deliver move is next, so the step runs its command, whose empty
operands are within every capacity. -/
theorem fetchWordIsRunNext : Obligations.FetchWordIsRunNext := by
  intro s w i h
  obtain ⟨hw, hi⟩ := decodeTableWord_some h
  have hplaced : s.withFetchWord 8 w = { s.begin (tableRequest w) with inputs := .deliver :: s.inputs } := by
    have hmod : w % 2 ^ 8 = w := Nat.mod_eq_of_lt hw
    rw [State.withFetchWord, hmod]
  have hstep : step (s.withFetchWord 8 w) = exec i { s.begin (tableRequest w) with inputs := s.inputs } := by
    rw [hplaced]
    exact stepRunsTheDecodedCommand _ (tableRequest w) i rfl rfl hi (.inr rfl)
  have hwf : i.wf s.cfg = true := by
    rw [← encode_wf, encode_of_decode hi]
    simp [tableRequest, Request.wf, Config.fits]
  refine ⟨hstep, ?_⟩
  rw [hstep]
  exact everyCommandCompletesWithItsResponse i { s.begin (tableRequest w) with inputs := s.inputs } hwf

/-- Settles O46, move by move. -/
theorem phaseMovesBetweenIdleAndBusy : Obligations.PhaseMovesBetweenIdleAndBusy := by
  intro s r es hs
  refine ⟨fun hp hin hw => ?_, fun hp hin => ?_, fun r' hp hin => ?_, fun hin => ?_⟩
  · rw [step_cons hin]
    exact ⟨_, hostIssue_of_wf (s := { s with inputs := es }) hp hw, rfl, rfl, rfl, rfl, rfl, rfl, rfl, rfl⟩
  · rw [step_deliver_busy hs (State.nextMove_of_cons hin) hp, State.afterMove_of_cons hin]
    exact ⟨_, rfl, rfl, rfl, rfl, rfl, rfl, rfl⟩
  · rw [step_cons hin]
    exact hostIssue_of_busy r' hp
  · rw [step_cons hin]
    exact ⟨_, rfl, rfl, rfl, rfl, rfl, rfl⟩

/-- Settles O52: the host's issue tests the phase first, then the capacity. -/
theorem brokenHostDutiesAreRefused : Obligations.BrokenHostDutiesAreRefused := by
  intro s r es hin
  rw [step_cons hin]
  refine ⟨fun q hp => hostIssue_of_busy r hp, fun hp hw => hostIssue_of_not_wf hp hw, fun hp hw => ?_⟩
  exact ⟨_, hostIssue_of_wf (s := { s with inputs := es }) hp hw, rfl⟩

/-- Settles O55: both deliver the response of the one request at the one configuration. -/
theorem responseDependsOnRequestAndConstantsOnly : Obligations.ResponseDependsOnRequestAndConstantsOnly := by
  intro s s' r es es' hs hs' hcfg hp hp' hin hin'
  refine ⟨_, _, respond s.cfg r, step_deliver_busy hs (State.nextMove_of_cons hin) hp,
    step_deliver_busy hs' (State.nextMove_of_cons hin') hp', rfl, ?_⟩
  rw [hcfg]
  rfl

/-- Settles O56, by induction on the number of ticks: a tick keeps the held request and delivers nothing. -/
theorem everyFiniteLatencyEndsInTheResponse : Obligations.EveryFiniteLatencyEndsInTheResponse := by
  intro s r n es hs hp hin
  induction n generalizing s with
  | zero =>
    have hstep := step_deliver_busy hs (State.nextMove_of_cons hin) hp
    rw [State.afterMove_of_cons hin] at hstep
    exact ⟨_, run_one hstep, rfl, rfl, rfl⟩
  | succ n ih =>
    rw [List.replicate_succ, List.cons_append] at hin
    obtain ⟨t, hstep, ht, hheld, hcfg, hinputs, hdelivered⟩ := step_tick_continues hs (State.nextMove_of_cons hin)
    rw [State.held_of_busy hp, State.held_eq_some_iff] at hheld
    rw [hin, List.tail_cons] at hinputs
    rw [run_succ (n + 1) hstep, ← hcfg, ← List.append_nil s.delivered, ← hdelivered]
    exact ih t ht hheld hinputs

/-- Settles O57, by induction on the moves: each keeps the invariant and the host's duties, and what it delivers is what
the host is owed for it. -/
theorem dutifulHostReceivesWhatItIsOwed : Obligations.DutifulHostReceivesWhatItIsOwed := by
  intro s hs hkeep
  induction hin : s.inputs generalizing s with
  | nil =>
    obtain ⟨t, hstep, ht, hheld, hcfg, hinputs, hdelivered⟩ := step_of_no_move hs hin
    have hp := State.held_eq_none_iff.mp hheld
    exact ⟨t, run_one hstep, hp, (ht.of_idle hp).2, by rw [hinputs, hin]; rfl, hcfg, hdelivered⟩
  | cons e es ih =>
    rw [hin] at hkeep
    obtain ⟨t, hstep, ht, hinputs, hcfg, hkeep', howed⟩ := dutiful_step hs hin hkeep
    obtain ⟨u, hrun, hp, hn, hempty, hcfg', hdelivered⟩ := ih t ht (by rw [hinputs, hkeep']) hinputs
    refine ⟨u, ?_, hp, hn, hempty, hcfg'.trans hcfg, ?_⟩
    · rw [List.length_cons, run_succ _ hstep, hrun]
    · rw [hdelivered, howed, hin]

/-- Settles O48: the reset delivers nothing and leaves an Idle instance, from which the rest of the moves is a run of
its own. -/
theorem resetAbandonsTheRequest : Obligations.ResetAbandonsTheRequest := by
  intro s r es hs hp hin
  obtain ⟨-, hw, -, -⟩ := hs.of_busy hp
  obtain ⟨t, hstep, ht, hheld, hcfg, hinputs, hdelivered⟩ := step_reset_continues hs (State.nextMove_of_cons hin)
  rw [hin, List.tail_cons] at hinputs
  rw [List.append_nil] at hdelivered
  have hidle := State.held_eq_none_iff.mp hheld
  refine ⟨⟨t, hstep, hidle, (ht.of_idle hidle).2, hdelivered⟩, fun hkeep => ?_, fun hes => ?_⟩
  · obtain ⟨u, hrun, -, -, -, -, hu⟩ := dutifulHostReceivesWhatItIsOwed t ht (by rw [hcfg, hheld, hinputs, hkeep])
    rw [hinputs] at hrun hu
    rw [hcfg, hheld, hdelivered] at hu
    exact ⟨u, by rw [run_succ _ hstep, hrun], hu⟩
  · subst hes
    obtain ⟨v, hstep', hv, hheld', hcfg', hinputs', hdelivered'⟩ :=
      step_issue_continues ht (State.nextMove_of_cons hinputs) hidle (by rw [hcfg, hw])
    rw [hinputs, List.tail_cons] at hinputs'
    have hlast := step_deliver_busy hv (State.nextMove_of_cons hinputs') (State.held_eq_some_iff.mp hheld')
    refine ⟨_, (run_succ 2 hstep).trans ((run_succ 1 hstep').trans (run_one hlast)), rfl, ?_⟩
    rw [State.deliver_delivered, State.afterMove_delivered, hdelivered', List.append_nil, hdelivered, hcfg', hcfg]

/-! ### The statements on single positions and on instances -/

/-- Settles O49: the invariant says at which position the work stands, and the tick takes the payload byte there or
finds the output complete. -/
theorem tickProcessesOnePositionOfEncode : Obligations.TickProcessesOnePositionOfEncode := by
  intro s r a b P es hs hp hcmd hP hn hin
  obtain ⟨-, -, -, hwork⟩ := hs.of_busy hp
  obtain ⟨hprogress, htick, hdone⟩ := tickWork_reencode hcmd hP hwork
  have hstep := step_tick_busy hs (State.nextMove_of_cons hin) hp hn
  rw [State.afterMove_of_cons hin] at hstep
  refine ⟨_, hstep, rfl, rfl, rfl, rfl, by rw [hprogress.pos_eq, posAt_toNat], fun hlt => ?_, fun heq => ?_⟩
  · rcases hprogress.cases with ⟨heq, -⟩ | ⟨-, p, hb⟩
    · omega
    · rw [htick p hb]
      exact ⟨rfl, by simp, BitVec.toNat_add _ _, (hprogress.next hb).out_eq_take⟩
  · rcases hprogress.cases with ⟨-, hout⟩ | ⟨hlt, -⟩
    · rw [hdone heq hout]
      exact ⟨rfl, rfl⟩
    · omega

/-- Settles O50: the same for the pairs of DECODE. -/
theorem tickProcessesOnePositionOfDecode : Obligations.TickProcessesOnePositionOfDecode := by
  intro s r a b E es hs hp hcmd ha hE heven hn hin
  obtain ⟨-, -, -, hwork⟩ := hs.of_busy hp
  obtain ⟨hheader, hall⟩ := (workOk_of_decode hcmd s.work).mp hwork
  have hprogress := hall E hE
  have hstep := step_tick_busy hs (State.nextMove_of_cons hin) hp hn
  rw [State.afterMove_of_cons hin, tickWork_of_decode hcmd] at hstep
  refine ⟨_, hstep, rfl, rfl, rfl, rfl, by rw [hprogress.pos_eq, posAt_toNat], fun hlt => ?_, fun heq => ?_⟩
  · rcases hprogress.cases heven with ⟨heq, -⟩ | ⟨-, e0, e1, F, hdrop⟩
    · omega
    · rw [tickDecode_of_pair (hheader.trans ha) hE heven hdrop]
      exact ⟨rfl, by simp, BitVec.toNat_add _ _, (hprogress.next hdrop).out_eq_take⟩
  · rcases hprogress.cases heven with ⟨-, hout⟩ | ⟨hlt, -⟩
    · rw [tickDecode_of_done (hheader.trans ha) ha hE heven heq hout, respond_of_decode hcmd]
      exact ⟨rfl, rfl⟩
    · omega

/-- Settles O58: a step at a place replaces the instance there and looks at no other. -/
theorem instancesAreIndependent : Obligations.InstancesAreIndependent := by
  intro S S' j k hjk h
  refine ⟨?_, fun m hm => System.stepAt_getElem?_ne h hm, fun s hj => ?_, fun S'' hk => System.stepAt_comm hjk h hk⟩
  · rcases System.stepAt_next h with ⟨-, rfl⟩ | ⟨s, t, -, -, rfl⟩
    · rfl
    · exact List.length_set
  · rcases System.stepAt_next h with ⟨hnone, -⟩ | ⟨s', t, hj', hstep, rfl⟩
    · cases hnone.symm.trans hj
    · cases hj'.symm.trans hj
      obtain ⟨hlt, -⟩ := List.getElem?_eq_some_iff.mp hj
      exact ⟨t, hstep, List.getElem?_set_self hlt⟩

end Sys2Proof.Machine
